-- ==== Sys2Proof/Word.lean ====
section
/-! DEFINITION. The machine's words: bytes, 32-bit bus words and 18-bit register-space offsets. -/

namespace Sys2Proof

/-- A byte: one colour channel, one palette field, one byte of ROWBUF. -/
abbrev Byte := BitVec 8

/-- A 32-bit bus word, register value or command word (20_memory.md R60, 30_encoding.md R100). -/
abbrev Word := BitVec 32

/-- An 18-bit byte offset into the register space (20_memory.md R60). -/
abbrev Offset := BitVec 18

end Sys2Proof
end

