-- ==== Sys2Proof/Syntax.lean ====
section
/-! DEFINITION. The syntax: the twenty commands, the fields of a command word, the error codes, and what
the host can do on the bus. -/

namespace Sys2Proof

/-- The five legal bit counts (00_scope.md R7, 30_encoding.md R102). -/
inductive BitCount
  | bc1 | bc4 | bc8 | bc24 | bc32
deriving DecidableEq, Repr

/-- The twenty legal commands, one constructor per row of the opcode table (30_encoding.md R106). A
command has no operand of its own: it works on W_SNAP and the local memories (R109). -/
inductive Instr
  | nop
  | unpack1 | unpack4 | unpack8 | unpack24 | unpack32
  | pack1 | pack4 | pack8 | pack24 | pack32
  | size1 | size4 | size8 | size24 | size32
  | genramp1 | genramp4 | genramp8
  | palclr
deriving DecidableEq, Repr

/-- The fields of a command word (30_encoding.md R100): OP [3:0], RSV0 [7:4], BC [13:8], RSV1 [31:14]. -/
structure CmdFields where
  rsv1 : BitVec 18
  bc : BitVec 6
  rsv0 : BitVec 4
  op : BitVec 4
deriving DecidableEq, Repr

/-- The values of STATUS.ERRCODE (60_exceptions.md R221). Codes 7 to 15 are never written and are left
out of the type, as 93_implementation_defined.md U6 allows (log entry 9). -/
inductive ErrCode
  | noError | badOp | unsupported | widthRange | palInvalid | palNoMatch | cmdOverrun
deriving DecidableEq, Repr

/-- One operation of a host program. An access has a byte offset and a width in bytes, so that the
accesses the block refuses (20_memory.md R61, R62) can be written down. -/
inductive HostOp
  /-- `MemRead(off, bytes)`. -/
  | read (off : Offset) (bytes : Nat)
  /-- `MemWrite(off, bytes, v)`. -/
  | write (off : Offset) (bytes : Nat) (v : Word)
  /-- POLL: read `off` until the result masked by `mask` is `v` (30_encoding.md R110). -/
  | poll (off : Offset) (mask v : Word)
deriving DecidableEq, Repr

/-- The outcomes of one host access (00_scope.md R12, 20_memory.md R63). -/
inductive BusResponse
  | readOk (data : Word)
  | writeOk
  | readError (data : Word)
  | writeError
deriving DecidableEq, Repr

/-- Who moves next in the one interleaving of host accesses, ENGINE steps and hardware resets
(20_memory.md R73, 70_reset_and_hazards.md R250; log entry 4). -/
inductive Turn
  | host | engine | reset
deriving DecidableEq, Repr

end Sys2Proof
end

