-- ==== Sys2Proof/WellFormed.lean ====
section
/-! DEFINITION. Well-formedness: which (OP, BC) pairs are commands, and which host operations the bus
accepts by their form alone. -/

namespace Sys2Proof

/-- The BC values each OP allows (30_encoding.md R105), as numbers. -/
def legalBitCounts : Nat → List Nat
  | 0 => [0]
  | 1 => [1, 4, 8, 24, 32]
  | 2 => [1, 4, 8, 24, 32]
  | 3 => [1, 4, 8, 24, 32]
  | 4 => [1, 4, 8]
  | 5 => [0]
  | _ => []

/-- A command word's fields are legal: no reserved bit is set (R103), the OP exists (R101) and the BC is
one of the OP's (R105). -/
def CmdFields.wf (f : CmdFields) : Bool :=
  f.rsv1 == 0 && f.rsv0 == 0 && decide (f.op.toNat < 6) && (legalBitCounts f.op.toNat).contains f.bc.toNat

/-- An access is well formed when it is 32 bits wide (20_memory.md R61), aligned (R62) and inside the
register space 0x00000 to 0x2FFFF (R60). -/
def accessWf (off : Offset) (bytes : Nat) : Bool :=
  bytes == 4 && off.toNat % 4 == 0 && decide (off.toNat < 0x30000)

/-- A host operation is well formed when its access is. -/
def HostOp.wf : HostOp → Bool
  | .read off bytes => accessWf off bytes
  | .write off bytes _ => accessWf off bytes
  | .poll off _ _ => accessWf off 4

end Sys2Proof
end

