-- ==== Sys2Proof/Decode.lean ====
section
/-! DEFINITION. Decoding a command word, total on all 32-bit words and rejecting by error code, and the
encoder, from the format of 30_encoding.md R100 to R107. -/

namespace Sys2Proof

/-- What a command word decodes to: a command, or the error code it completes with (30_encoding.md R104,
R107). -/
inductive Decoded
  | command (i : Instr)
  | illegal (code : ErrCode)
deriving DecidableEq, Repr

/-- The command of a decoded word, if it is one. -/
def Decoded.toOption : Decoded → Option Instr
  | .command i => some i
  | .illegal _ => none

/-- The fields of a command word (30_encoding.md R100). -/
def fieldsOf (w : Word) : CmdFields :=
  { rsv1 := w.extractLsb' 14 18, bc := w.extractLsb' 8 6, rsv0 := w.extractLsb' 4 4, op := w.extractLsb' 0 4 }

/-- BC as one of the five legal bit counts, if it is one (30_encoding.md R102). -/
def bitCountOf (bc : BitVec 6) : Option BitCount :=
  match bc.toNat with
  | 1 => some .bc1
  | 4 => some .bc4
  | 8 => some .bc8
  | 24 => some .bc24
  | 32 => some .bc32
  | _ => none

/-- UNPACK at each bit count (30_encoding.md R106). -/
def unpackCmd : BitCount → Decoded
  | .bc1 => .command .unpack1
  | .bc4 => .command .unpack4
  | .bc8 => .command .unpack8
  | .bc24 => .command .unpack24
  | .bc32 => .command .unpack32

/-- PACK at each bit count (30_encoding.md R106). -/
def packCmd : BitCount → Decoded
  | .bc1 => .command .pack1
  | .bc4 => .command .pack4
  | .bc8 => .command .pack8
  | .bc24 => .command .pack24
  | .bc32 => .command .pack32

/-- SIZE at each bit count (30_encoding.md R106). -/
def sizeCmd : BitCount → Decoded
  | .bc1 => .command .size1
  | .bc4 => .command .size4
  | .bc8 => .command .size8
  | .bc24 => .command .size24
  | .bc32 => .command .size32

/-- GENRAMP at each palette bit count; 24 and 32 have no palette (30_encoding.md R105). -/
def genrampCmd : BitCount → Decoded
  | .bc1 => .command .genramp1
  | .bc4 => .command .genramp4
  | .bc8 => .command .genramp8
  | .bc24 => .illegal .unsupported
  | .bc32 => .illegal .unsupported

/-- The bit-count check of an OP that takes a bit count (30_encoding.md R104, step 2). -/
def withBitCount (bc : BitVec 6) (f : BitCount → Decoded) : Decoded :=
  match bitCountOf bc with
  | some b => f b
  | none => .illegal .unsupported

/-- The check of an OP that takes none (30_encoding.md R104, step 1). -/
def withoutBitCount (bc : BitVec 6) (i : Instr) : Decoded :=
  if bc = 0 then .command i else .illegal .badOp

/-- Decode the fields of a command word, the checks in the order of 30_encoding.md R104. -/
def decodeFields (f : CmdFields) : Decoded :=
  if f.rsv1 ≠ 0 ∨ f.rsv0 ≠ 0 then .illegal .badOp
  else match f.op.toNat with
    | 0 => withoutBitCount f.bc .nop
    | 1 => withBitCount f.bc unpackCmd
    | 2 => withBitCount f.bc packCmd
    | 3 => withBitCount f.bc sizeCmd
    | 4 => withBitCount f.bc genrampCmd
    | 5 => withoutBitCount f.bc .palclr
    | _ => .illegal .badOp

/-- Decode a command word (30_encoding.md R104, R107). -/
def decode (w : Word) : Decoded := decodeFields (fieldsOf w)

/-- The OP field of each command (30_encoding.md R101, R106). -/
def Instr.op : Instr → BitVec 4
  | .nop => 0
  | .unpack1 | .unpack4 | .unpack8 | .unpack24 | .unpack32 => 1
  | .pack1 | .pack4 | .pack8 | .pack24 | .pack32 => 2
  | .size1 | .size4 | .size8 | .size24 | .size32 => 3
  | .genramp1 | .genramp4 | .genramp8 => 4
  | .palclr => 5

/-- The BC field of each command (30_encoding.md R102, R106). -/
def Instr.bc : Instr → BitVec 6
  | .nop | .palclr => 0
  | .unpack1 | .pack1 | .size1 | .genramp1 => 1
  | .unpack4 | .pack4 | .size4 | .genramp4 => 4
  | .unpack8 | .pack8 | .size8 | .genramp8 => 8
  | .unpack24 | .pack24 | .size24 => 24
  | .unpack32 | .pack32 | .size32 => 32

/-- The fields of a command's word; the reserved ones are 0 (30_encoding.md R103). -/
def Instr.fields (i : Instr) : CmdFields := ⟨0, i.bc, 0, i.op⟩

/-- A command is well formed when its fields are legal. -/
def Instr.wf (i : Instr) : Bool := i.fields.wf

/-- Lay the fields of a command out as its word (30_encoding.md R100). -/
def wordOfFields (f : CmdFields) : Word := f.rsv1 ++ f.bc ++ f.rsv0 ++ f.op

/-- The word of a command (30_encoding.md R106). -/
def encode (i : Instr) : Word := wordOfFields i.fields

/-- The first `nbits` bits of `w` as a command word, every higher bit 0. A command is one 32-bit word
(30_encoding.md R108), so the whole of it is the table's numbering. -/
def tableWord (nbits w : Nat) : Word := BitVec.ofNat 32 (w % 2 ^ nbits)

/-- The command the decoder reads from a word given as the opcode table numbers its bits. -/
def decodeTableWord (nbits w : Nat) : Option Instr := (decode (tableWord nbits w)).toOption

end Sys2Proof
end

