-- ==== Sys2Proof/Config.lean ====
section
/-! DEFINITION. What the spec leaves to an implementation, and the values it leaves open. None of
these constants has a body, so no proof can see a value of one. -/

namespace Sys2Proof.Config

/-- DESIGN CHOICE (log entry 1). The OPEN parameter MAX_WIDTH, 1 ≤ MAX_WIDTH ≤ 16384 (00_scope.md R7,
92_eei_decisions.md D5), held as its distance below 16384 so that the type carries the bounds;
`Sys2Proof.Machine.maxWidth` is the parameter itself. -/
opaque maxWidthSlack : Fin 16384

/-- DESIGN CHOICE (log entry 2). The OPEN parameter BPRC_BASE: where the register space begins in the
host's address space (20_memory.md R68, 92_eei_decisions.md D4). -/
opaque bprcBase : Nat

/-- Free value (log entry 3). ROWBUF byte `j` after hardware reset number `r`, until it is written
(93_implementation_defined.md U1). -/
opaque powerOnByte (r j : Nat) : BitVec 8

/-- Free value (log entry 3). PIXBUF entry `i` (R, G, B from the high byte down) after hardware reset
number `r`, until it is written (93_implementation_defined.md U1). -/
opaque powerOnPixel (r i : Nat) : BitVec 24

/-- Free value (log entry 3). PAL entry `k` (RSV, R, G, B from the high byte down) after hardware reset
number `r`, until it is written (93_implementation_defined.md U2). -/
opaque powerOnPalette (r k : Nat) : BitVec 32

end Sys2Proof.Config
end

