-- ==== Sys2Proof/Machine/State.lean ====
section
/-! DEFINITION. The state as plain data, the reasons a step can stop, and the state after hardware reset
(10_state.md R39, 70_reset_and_hazards.md R250). -/

namespace Sys2Proof.Machine

/-- One PIXBUF entry: three 8-bit channels and no alpha (10_state.md R36). -/
structure Pixel where
  b : Byte
  g : Byte
  r : Byte
deriving DecidableEq, Repr

/-- One PAL entry: three 8-bit channels and the reserved byte (10_state.md R37). -/
structure PalEntry where
  b : Byte
  g : Byte
  r : Byte
  rsv : Byte
deriving DecidableEq, Repr

/-- A local memory: the locations written since the last hardware reset with their contents. Of bytes, it
is a list of `Host.Cell`. An unlisted location has no entry; what it reads as is the accessors' free value
(Operands.lean; log entry 3). -/
abbrev Memory (α : Type) := List (Nat × α)

/-- The canonical form of a local memory: locations strictly rising. -/
abbrev Memory.wf {α : Type} (m : Memory α) : Prop := List.Pairwise (fun a b => a < b) (m.map Prod.fst)

/-- What stands outside the block (log entries 4 to 6): the schedule of turns, the host's remaining
program, and the responses the host has received, newest first. -/
structure Env where
  schedule : List Turn
  program : List HostOp
  responses : List BusResponse
deriving DecidableEq, Repr

/-- The complete architectural state of the BPRC (10_state.md R39), the hardware reset count that selects
the free values of unwritten RAM, and the environment. -/
structure State where
  /-- CMD, the last accepted command word (R21). -/
  cmd : Word
  /-- W_SNAP, the hidden copy of WIDTH taken with the command (R28). -/
  wSnap : Word
  /-- STATUS.BUSY (R23). -/
  busy : Bool
  /-- STATUS.DONE (R24). -/
  done : Bool
  /-- STATUS.ERR (R25). -/
  err : Bool
  /-- STATUS.ERRCODE (R25). -/
  errCode : ErrCode
  /-- CTRL.IE_DONE (R26). -/
  ieDone : Bool
  /-- CTRL.IE_ERR (R26). -/
  ieErr : Bool
  /-- WIDTH (R27). -/
  width : Word
  /-- ROWDATA (R29). -/
  rowData : Word
  /-- ROWPAD (R29). -/
  rowPad : Word
  /-- ROWSTRIDE (R29). -/
  rowStride : Word
  /-- PV[0..255], bit k for entry k (R38). -/
  pv : BitVec 256
  /-- PAL[0..255] (R37). -/
  pal : Memory PalEntry
  /-- ROWBUF (R35). -/
  rowbuf : Memory Byte
  /-- PIXBUF (R36). -/
  pixbuf : Memory Pixel
  /-- The model's own: how many hardware resets have happened (log entry 3). -/
  resets : Nat
  /-- The model's own: the environment (log entries 4 to 6). -/
  env : Env
deriving DecidableEq, Repr

/-- The faults of a step: there are none. A host access is answered and a command completes, with or
without an error (00_scope.md R12), so nothing stops the machine; that the type is empty is safe, since
every behaviour the spec gives is a next state. -/
inductive Fault
deriving DecidableEq, Repr

/-- The refusals of a step. -/
inductive Refusal
  /-- An arm of `exec` whose command has no meaning yet; no arm raises it. Safe: the machine stops where the
  hardware goes on. -/
  | notModelled (mnemonic : String)
deriving DecidableEq, Repr

/-- The state after hardware reset (R39, R250): every register and every PV 0, and the RAMs unwritten. The
model's own fields begin with no reset counted, no schedule, no program and no response (DESIGN CHOICE, log
entries 3 to 6). -/
def State.reset : State where
  cmd := 0
  wSnap := 0
  busy := false
  done := false
  err := false
  errCode := .noError
  ieDone := false
  ieErr := false
  width := 0
  rowData := 0
  rowPad := 0
  rowStride := 0
  pv := 0
  pal := []
  rowbuf := []
  pixbuf := []
  resets := 0
  env := { schedule := [], program := [], responses := [] }

end Sys2Proof.Machine
end

