-- ==== Sys2Proof/Machine/Flags.lean ====
section
/-! DEFINITION. The flags as words and lines: STATUS, CTRL, PALVALID0 to 7 and IRQ. -/

namespace Sys2Proof

/-- The four bits that STATUS[7:4] shows (60_exceptions.md R221). -/
def ErrCode.bits : ErrCode → BitVec 4
  | .noError => 0
  | .badOp => 1
  | .unsupported => 2
  | .widthRange => 3
  | .palInvalid => 4
  | .palNoMatch => 5
  | .cmdOverrun => 6

end Sys2Proof

namespace Sys2Proof.Machine

/-- STATUS as it reads: ERRCODE [7:4], ERR [2], DONE [1], BUSY [0], every other bit 0 (10_state.md R22). -/
def State.statusWord (s : State) : Word :=
  0#24 ++ s.errCode.bits ++ 0#1 ++ BitVec.ofBool s.err ++ BitVec.ofBool s.done ++ BitVec.ofBool s.busy

/-- CTRL as it reads: IE_ERR [1], IE_DONE [0], SRST and every other bit 0 (10_state.md R26). -/
def State.ctrlWord (s : State) : Word := 0#30 ++ BitVec.ofBool s.ieErr ++ BitVec.ofBool s.ieDone

/-- PALVALIDj as it reads: bit k is PV[32·j + k] (10_state.md R32). -/
def State.palValidWord (s : State) (j : Nat) : Word := s.pv.extractLsb' (32 * j) 32

/-- The interrupt line, a level (60_exceptions.md R230). -/
def State.irq (s : State) : Bool := (s.ieDone && s.done) || (s.ieErr && s.err)

end Sys2Proof.Machine
end

