-- ==== Sys2Proof/Machine/Memory.lean ====
section
/-! DEFINITION. Reading and writing a local memory held as the sorted list of its written locations. -/

namespace Sys2Proof.Machine

variable {α : Type}

/-- What has been written at a location, if anything. -/
def Memory.read (m : Memory α) (a : Nat) : Option α :=
  match m with
  | [] => none
  | (b, v) :: rest => if b = a then some v else Memory.read rest a

/-- Write one location, keeping the list sorted. -/
def Memory.write (m : Memory α) (a : Nat) (v : α) : Memory α :=
  match m with
  | [] => [(a, v)]
  | (b, w) :: rest =>
    if a < b then (a, v) :: (b, w) :: rest
    else if a = b then (a, v) :: rest
    else (b, w) :: Memory.write rest a v

/-- Write a run of values at rising locations from `a`, the first value first. -/
def Memory.writeSeq (m : Memory α) (a : Nat) (vs : List α) : Memory α :=
  match vs with
  | [] => m
  | v :: rest => Memory.writeSeq (Memory.write m a v) (a + 1) rest

end Sys2Proof.Machine
end

