-- ==== Sys2Proof/Machine/Operands.lean ====
section
/-! DEFINITION. What a command reads: the width snapshot, the row geometry, the local memories, the palette
lookups in both directions, and how indices lie in bytes (40_unpack.md, 41_pack.md, 42_control.md R196). -/

namespace Sys2Proof

/-- The bit count as the number it is. -/
def BitCount.toNat : BitCount → Nat
  | .bc1 => 1
  | .bc4 => 4
  | .bc8 => 8
  | .bc24 => 24
  | .bc32 => 32

end Sys2Proof

namespace Sys2Proof.Machine

/-- MAX_WIDTH, the largest row width in pixels, 1 ≤ MAX_WIDTH ≤ 16384 and otherwise open (00_scope.md R7;
log entry 1). -/
def maxWidth : Nat := (16383 - Config.maxWidthSlack.val) + 1

/-! ### Row geometry -/

/-- `ceil(a / b)` of natural numbers (00_scope.md R9). -/
def natCeilDiv (a b : Nat) : Nat := (a + b - 1) / b

/-- The data bytes of a stored row of `w` pixels (40_unpack.md R130). -/
def rowDataLen (bc : BitCount) (w : Nat) : Nat := natCeilDiv (w * bc.toNat) 8

/-- The padding bytes of a stored row (40_unpack.md R131). -/
def rowPadLen (bc : BitCount) (w : Nat) : Nat := (4 - rowDataLen bc w % 4) % 4

/-- The stride of a stored row (40_unpack.md R132). -/
def rowStrideLen (bc : BitCount) (w : Nat) : Nat := rowDataLen bc w + rowPadLen bc w

/-! ### The local memories as a command or the host reads them -/

/-- `W`, the width the executing command uses: W_SNAP, never WIDTH (10_state.md R28). -/
def State.w (s : State) : Nat := s.wSnap.toNat

/-- `ROWBUF[j]` (10_state.md R35); a free value while it is unwritten (log entry 3). -/
def State.rowByte (s : State) (j : Nat) : Byte :=
  (Memory.read s.rowbuf j).getD (Config.powerOnByte s.resets j)

/-- The channels of a 24-bit free value. -/
def pixelOfBits (v : BitVec 24) : Pixel :=
  { b := v.extractLsb' 0 8, g := v.extractLsb' 8 8, r := v.extractLsb' 16 8 }

/-- `PIXBUF[i]` (10_state.md R36); a free value while it is unwritten (log entry 3). -/
def State.pixel (s : State) (i : Nat) : Pixel :=
  (Memory.read s.pixbuf i).getD (pixelOfBits (Config.powerOnPixel s.resets i))

/-- The fields of a palette record read as a little-endian word (20_memory.md R67). -/
def palEntryOfWord (v : Word) : PalEntry :=
  { b := v.extractLsb' 0 8, g := v.extractLsb' 8 8, r := v.extractLsb' 16 8, rsv := v.extractLsb' 24 8 }

/-- `PAL[k]` (10_state.md R37); a free value while it is unwritten (log entry 3). -/
def State.palEntry (s : State) (k : Nat) : PalEntry :=
  (Memory.read s.pal k).getD (palEntryOfWord (Config.powerOnPalette s.resets k))

/-- `PV[k]` (10_state.md R38). -/
def State.valid (s : State) (k : Nat) : Bool := s.pv.getLsbD k

/-- The colour of a palette entry; the reserved byte takes no part (10_state.md R37). -/
def PalEntry.colour (e : PalEntry) : Pixel := { b := e.b, g := e.g, r := e.r }

/-! ### Pixel by pixel -/

/-- Run `f` for pixels 0, 1, …, n−1 in ascending order and collect the results; the first error ends the run
(40_unpack.md R135 (b), 41_pack.md R162). -/
def forPixels {α : Type} (f : Nat → Except ErrCode α) : Nat → Except ErrCode (List α)
  | 0 => .ok []
  | n + 1 =>
    match forPixels f n with
    | .error e => .error e
    | .ok vs =>
      match f n with
      | .error e => .error e
      | .ok v => .ok (vs ++ [v])

/-! ### Unpacking -/

/-- The palette lookup of UNPACK.1/4/8 (40_unpack.md R134). -/
def lookupUnpack (s : State) (k : Byte) : Except ErrCode Pixel :=
  if s.valid k.toNat then .ok (s.palEntry k.toNat).colour else .error .palInvalid

/-- The 1-bit index of pixel `x`, bit 7 first (40_unpack.md R136). -/
def index1 (s : State) (x : Nat) : Byte := (s.rowByte (x / 8) >>> (7 - x % 8)) &&& 0x01

/-- The 4-bit index of pixel `x`, high nibble first (40_unpack.md R137). -/
def index4 (s : State) (x : Nat) : Byte :=
  if x % 2 = 0 then (s.rowByte (x / 2) &&& 0xF0) >>> 4 else s.rowByte (x / 2) &&& 0x0F

/-- The 8-bit index of pixel `x` (40_unpack.md R138). -/
def index8 (s : State) (x : Nat) : Byte := s.rowByte x

/-- Pixel `x` of a row whose pixels are `n` bytes each, B, G, R first (40_unpack.md R139, R140). -/
def directPixel (s : State) (n x : Nat) : Pixel :=
  { b := s.rowByte (n * x), g := s.rowByte (n * x + 1), r := s.rowByte (n * x + 2) }

/-! ### Packing -/

/-- The reverse palette lookup of PACK.1/4/8: the lowest valid index below 2^BC with the pixel's colour
(41_pack.md R160). -/
def lookupPack (s : State) (bc : BitCount) (p : Pixel) : Except ErrCode Byte :=
  match (List.range (2 ^ bc.toNat)).find? (fun k => s.valid k && decide ((s.palEntry k).colour = p)) with
  | some k => .ok (BitVec.ofNat 8 k)
  | none => .error .palNoMatch

/-- `idx[x]` of a computed index list; 0 beyond its end, which stands for the unused positions that are written
as 0 (41_pack.md R161 (d)). -/
def idxAt (idx : List Byte) (x : Nat) : Byte := idx[x]?.getD 0

/-- Byte `j` of a packed 1-bit row of `w` pixels (41_pack.md R163). -/
def packByte1 (w : Nat) (idx : List Byte) (j : Nat) : Byte :=
  (List.range 8).foldl
    (fun byte b => if 8 * j + b < w then byte ||| (idxAt idx (8 * j + b) <<< (7 - b)) else byte) 0x00

/-- Byte `j` of a packed 4-bit row of `w` pixels (41_pack.md R164). -/
def packByte4 (w : Nat) (idx : List Byte) (j : Nat) : Byte :=
  (idxAt idx (2 * j) <<< 4) ||| (if 2 * j + 1 < w then idxAt idx (2 * j + 1) else 0)

/-- Byte `j` of a packed 8-bit row (41_pack.md R165). -/
def packByte8 (idx : List Byte) (j : Nat) : Byte := idxAt idx j

/-- The three bytes of a pixel in a 24-bit row (41_pack.md R166). -/
def tripleOf (p : Pixel) : List Byte := [p.b, p.g, p.r]

/-- The four bytes of a pixel in a 32-bit row; the reserved byte is 0 (41_pack.md R167). -/
def quadOf (p : Pixel) : List Byte := [p.b, p.g, p.r, 0x00]

/-! ### The ramp -/

/-- `v[k]` of the grayscale ramp with the given step, by the recurrence of 42_control.md R196. -/
def rampValue (step : Nat) : Nat → Nat
  | 0 => 0
  | 1 => rampValue step 0 + step - 1
  | k + 2 => rampValue step (k + 1) + step

/-- Entry `k` of the ramp of a bit count, the step being 2^(8 − BC) (42_control.md R196). -/
def rampEntry (bc : BitCount) (k : Nat) : PalEntry :=
  let v := BitVec.ofNat 8 (rampValue (2 ^ (8 - bc.toNat)) k)
  { b := v, g := v, r := v, rsv := 0 }

end Sys2Proof.Machine
end

