-- ==== Sys2Proof/Machine/Ops.lean ====
section
/-! DEFINITION. The named operations that change the state: recording an error and clearing it, issuing and
completing a command, the resets, the geometry registers, and writing the local memories. -/

namespace Sys2Proof.Machine

/-! ### Errors: entry and return -/

/-- `record_error(code)`, the one way an error is taken: the first error is kept while ERR = 1. Nothing else is
saved and nothing is vectored (60_exceptions.md R224, R231). -/
def State.recordError (code : ErrCode) (s : State) : State :=
  if s.err then s else { s with err := true, errCode := code }

/-- A host write of `v` to STATUS, the return from an error: write-1-to-clear of DONE and of ERR with ERRCODE
(10_state.md R22, 60_exceptions.md R231). -/
def State.clearStatus (v : Word) (s : State) : State :=
  { s with
    done := if v.getLsbD 1 then false else s.done
    err := if v.getLsbD 2 then false else s.err
    errCode := if v.getLsbD 2 then .noError else s.errCode }

/-! ### Issuing and completing a command -/

/-- Accept a command word into CMD: WIDTH is copied to W_SNAP and the command is pending (10_state.md R21). -/
def State.acceptCommand (v : Word) (s : State) : State :=
  { s with cmd := v, wSnap := s.width, busy := true }

/-- A host write to CMD: accepted while idle, and discarded with CMD_OVERRUN while busy (10_state.md R21,
60_exceptions.md R228). -/
def State.writeCmd (v : Word) (s : State) : State :=
  if s.busy then s.recordError .cmdOverrun else s.acceptCommand v

/-- The end of every ENGINE step: BUSY ← 0 and DONE ← 1 (10_state.md R30). -/
def State.finish (s : State) : State := { s with busy := false, done := true }

/-- An ENGINE step that ends in an error (10_state.md R30, 60_exceptions.md R224). -/
def State.finishError (code : ErrCode) (s : State) : State := (s.recordError code).finish

/-! ### Resets -/

/-- Soft reset: every register, flag and PV to its reset value, the pending command abandoned, the contents of
PAL, ROWBUF and PIXBUF kept (70_reset_and_hazards.md R251). -/
def State.softReset (s : State) : State :=
  { s with
    cmd := 0, wSnap := 0, busy := false, done := false, err := false, errCode := .noError
    ieDone := false, ieErr := false, width := 0, rowData := 0, rowPad := 0, rowStride := 0, pv := 0 }

/-- Hardware reset: what soft reset does, and the RAMs hold unspecified values again, drawn afresh
(70_reset_and_hazards.md R250; log entry 3). -/
def State.hardReset (s : State) : State :=
  { s.softReset with pal := [], rowbuf := [], pixbuf := [], resets := s.resets + 1 }

/-- A host write of `v` to CTRL: bit 31 performs a soft reset; otherwise bits 0 and 1 are the interrupt enables
(10_state.md R26). -/
def State.writeCtrl (v : Word) (s : State) : State :=
  if v.getLsbD 31 then s.softReset else { s with ieDone := v.getLsbD 0, ieErr := v.getLsbD 1 }

/-! ### Geometry -/

/-- `set_geometry(BC, W)` (40_unpack.md R132). -/
def State.setGeometry (bc : BitCount) (s : State) : State :=
  { s with
    rowData := BitVec.ofNat 32 (rowDataLen bc s.w)
    rowPad := BitVec.ofNat 32 (rowPadLen bc s.w)
    rowStride := BitVec.ofNat 32 (rowStrideLen bc s.w) }

/-! ### Writing the local memories -/

/-- Write PIXBUF entries 0, 1, … (40_unpack.md R135 (b)). -/
def State.writePixels (ps : List Pixel) (s : State) : State :=
  { s with pixbuf := Memory.writeSeq s.pixbuf 0 ps }

/-- Write ROWBUF bytes from `j` on. -/
def State.writeRowFrom (j : Nat) (bs : List Byte) (s : State) : State :=
  { s with rowbuf := Memory.writeSeq s.rowbuf j bs }

/-- Write one stored row from ROWBUF byte 0: the data bytes, then the padding, each byte 0x00 (41_pack.md R161). -/
def State.writeStoredRow (bc : BitCount) (data : List Byte) (s : State) : State :=
  s.writeRowFrom 0 (data ++ List.replicate (rowPadLen bc s.w) 0x00)

/-- The flags PV[0..n−1] (n ≤ 256) as a vector. -/
def validBelow (n : Nat) : BitVec 256 := BitVec.ofNat 256 (2 ^ n - 1)

/-- Write palette entries 0, 1, … and make them valid (10_state.md R38, 42_control.md R196). -/
def State.writePalette (es : List PalEntry) (s : State) : State :=
  { s with pal := Memory.writeSeq s.pal 0 es, pv := s.pv ||| validBelow es.length }

/-- A host write of one PALETTE word: the entry, and PV[k] ← 1 (20_memory.md R67). -/
def State.writePalWord (k : Nat) (v : Word) (s : State) : State :=
  { s with pal := Memory.write s.pal k (palEntryOfWord v), pv := s.pv ||| BitVec.twoPow 256 k }

/-- The 256 zero entries that PALCLR writes (42_control.md R200). -/
def clearedEntries : List PalEntry := List.replicate 256 { b := 0, g := 0, r := 0, rsv := 0 }

/-- Zero every palette entry and clear every PV (42_control.md R200). -/
def State.clearPalette (s : State) : State :=
  { s with pal := Memory.writeSeq s.pal 0 clearedEntries, pv := 0 }

/-- A host write of one ROWBUF word, byte lanes little-endian (20_memory.md R64, R65). -/
def State.writeRowWord (k : Nat) (v : Word) (s : State) : State :=
  s.writeRowFrom (4 * k) [v.extractLsb' 0 8, v.extractLsb' 8 8, v.extractLsb' 16 8, v.extractLsb' 24 8]

/-- A host write of one PIXBUF word; bits 31 to 24 are ignored (20_memory.md R66). -/
def State.writePixWord (i : Nat) (v : Word) (s : State) : State :=
  { s with pixbuf := Memory.write s.pixbuf i (pixelOfBits (v.extractLsb' 0 24)) }

/-! ### The shape of a row command -/

/-- An UNPACK, PACK or SIZE command after decoding: the width check, the geometry, the command's own work on the
buffers, and the end of the ENGINE step (30_encoding.md R104 steps 3 to 5, 10_state.md R30). -/
def State.rowCommand (bc : BitCount) (work : State → State) (s : State) : State :=
  if maxWidth < s.w then s.finishError .widthRange else (work (s.setGeometry bc)).finish

/-- The work of UNPACK.1/4/8: look every index up, then write every pixel; an error writes none (40_unpack.md
R134, R135). -/
def State.unpackIndexed (index : State → Nat → Byte) (s : State) : State :=
  match forPixels (fun x => lookupUnpack s (index s x)) s.w with
  | .error e => s.recordError e
  | .ok ps => s.writePixels ps

/-- The work of UNPACK.24/32 with `n` bytes a pixel (40_unpack.md R139, R140). -/
def State.unpackDirect (n : Nat) (s : State) : State :=
  s.writePixels ((List.range s.w).map (directPixel s n))

/-- The work of PACK.1/4/8: look every colour up, then write the stored row whose byte `j` is `byteAt` of the
indices; an error writes none (41_pack.md R160 to R162). -/
def State.packIndexed (bc : BitCount) (byteAt : Nat → List Byte → Nat → Byte) (s : State) : State :=
  match forPixels (fun x => lookupPack s bc (s.pixel x)) s.w with
  | .error e => s.recordError e
  | .ok idx => s.writeStoredRow bc ((List.range (rowDataLen bc s.w)).map (byteAt s.w idx))

/-- The work of PACK.24/32 (41_pack.md R166, R167). -/
def State.packDirect (bc : BitCount) (bytesOf : Pixel → List Byte) (s : State) : State :=
  s.writeStoredRow bc ((List.range s.w).flatMap (fun x => bytesOf (s.pixel x)))

/-- `genramp(BC)` (42_control.md R196). -/
def State.genramp (bc : BitCount) (s : State) : State :=
  s.writePalette ((List.range (2 ^ bc.toNat)).map (rampEntry bc))

end Sys2Proof.Machine
end

