-- ==== Sys2Proof/Machine/Bus.lean ====
section
/-! DEFINITION. The bus slave: the address map, one host read and one host write (20_memory.md). -/

namespace Sys2Proof

/-- The data lanes of a response; a write has none and is given 0. -/
def BusResponse.data : BusResponse → Word
  | .readOk d => d
  | .readError d => d
  | .writeOk => 0
  | .writeError => 0

/-- The error indication of a response (20_memory.md R63). -/
def BusResponse.isError : BusResponse → Bool
  | .readOk _ => false
  | .writeOk => false
  | .readError _ => true
  | .writeError => true

end Sys2Proof

namespace Sys2Proof.Machine

/-- What a mapped offset names (20_memory.md R68). -/
inductive Loc
  | cmd | status | ctrl | width | rowData | rowPad | rowStride | param
  | palValid (j : Nat)
  | palette (k : Nat)
  | rowWord (k : Nat)
  | pixWord (i : Nat)
deriving DecidableEq, Repr

/-- A window onto a local memory, which is closed while BUSY = 1 (20_memory.md R70). -/
def Loc.isWindow : Loc → Bool
  | .palette _ => true
  | .rowWord _ => true
  | .pixWord _ => true
  | .cmd | .status | .ctrl | .width | .rowData | .rowPad | .rowStride | .param => false
  | .palValid _ => false

/-- The register at word `n` of the register block, 0x000 to 0x03C (20_memory.md R68). -/
def registerAt (n : Nat) : Option Loc :=
  match n with
  | 0 => some .cmd
  | 1 => some .status
  | 2 => some .ctrl
  | 3 => some .width
  | 4 => some .rowData
  | 5 => some .rowPad
  | 6 => some .rowStride
  | 7 => some .param
  | k + 8 => if k < 8 then some (.palValid k) else none

/-- The address map at an aligned offset (20_memory.md R68, R69); an offset the map does not name is not mapped,
those from 0x30000 up among them (log entry 7). -/
def locationAt (o : Nat) : Option Loc :=
  if o < 0x400 then registerAt (o / 4)
  else if o < 0x800 then some (.palette ((o - 0x400) / 4))
  else if o < 0x10000 then none
  else if o < 0x20000 then
    if (o - 0x10000) / 4 < maxWidth then some (.rowWord ((o - 0x10000) / 4)) else none
  else if o < 0x30000 then
    if (o - 0x20000) / 4 < maxWidth then some (.pixWord ((o - 0x20000) / 4)) else none
  else none

/-- What an access reaches: nothing unless it is 32 bits wide (20_memory.md R61), aligned (R62) and mapped (R68),
and no window while BUSY = 1 (R70). -/
def State.target (s : State) (off : Offset) (bytes : Nat) : Option Loc :=
  if bytes ≠ 4 ∨ off.toNat % 4 ≠ 0 then none
  else
    match locationAt off.toNat with
    | none => none
    | some l => if s.busy && l.isWindow then none else some l

/-- The word a read of a location returns (10_state.md R21 to R32, 20_memory.md R65 to R67). -/
def State.readLoc (s : State) : Loc → Word
  | .cmd => s.cmd
  | .status => s.statusWord
  | .ctrl => s.ctrlWord
  | .width => s.width
  | .rowData => s.rowData
  | .rowPad => s.rowPad
  | .rowStride => s.rowStride
  | .param => BitVec.ofNat 32 maxWidth
  | .palValid j => s.palValidWord j
  | .palette k => (s.palEntry k).rsv ++ (s.palEntry k).r ++ (s.palEntry k).g ++ (s.palEntry k).b
  | .rowWord k => s.rowByte (4 * k + 3) ++ s.rowByte (4 * k + 2) ++ s.rowByte (4 * k + 1) ++ s.rowByte (4 * k)
  | .pixWord i => 0#8 ++ (s.pixel i).r ++ (s.pixel i).g ++ (s.pixel i).b

/-- What a write of `v` to a location does; a write to a read-only register is ignored (20_memory.md R71). -/
def State.writeLoc (s : State) (v : Word) : Loc → State
  | .cmd => s.writeCmd v
  | .status => s.clearStatus v
  | .ctrl => s.writeCtrl v
  | .width => { s with width := v }
  | .rowData => s
  | .rowPad => s
  | .rowStride => s
  | .param => s
  | .palValid _ => s
  | .palette k => s.writePalWord k v
  | .rowWord k => s.writeRowWord k v
  | .pixWord i => s.writePixWord i v

/-- `MemRead(off, bytes)`: the data, or BusError with read data 0 (20_memory.md R60, R63). -/
def State.busRead (s : State) (off : Offset) (bytes : Nat) : BusResponse :=
  match s.target off bytes with
  | none => .readError 0
  | some l => .readOk (s.readLoc l)

/-- `MemWrite(off, bytes, v)`: the state after it and the response; BusError changes nothing (20_memory.md R60,
R63). -/
def State.busWrite (s : State) (off : Offset) (bytes : Nat) (v : Word) : State × BusResponse :=
  match s.target off bytes with
  | none => (s, .writeError)
  | some l => (s.writeLoc v l, .writeOk)

/-- The host's address of an offset: the register space begins at BPRC_BASE (20_memory.md R68). -/
def hostAddress (off : Offset) : Nat := Config.bprcBase + off.toNat

/-- The offset that a host address names, if it lies in the register space (20_memory.md R60, R68). -/
def offsetOfAddress (addr : Nat) : Option Offset :=
  if Config.bprcBase ≤ addr ∧ addr < Config.bprcBase + 0x30000 then some (BitVec.ofNat 18 (addr - Config.bprcBase))
  else none

end Sys2Proof.Machine
end

