-- ==== Sys2Proof/Machine/Control.lean ====
section
/-! DEFINITION. The meanings of NOP, SIZE, GENRAMP and PALCLR (42_control.md). Each meaning is the whole ENGINE
step of its command, the completion included (10_state.md R30; log entry 10). -/

namespace Sys2Proof.Machine

/-- NOP (42_control.md R190). -/
def execNop (s : State) : Host.Outcome State Fault Refusal := .next s.finish

/-- SIZE.1 (42_control.md R191). -/
def execSize1 (s : State) : Host.Outcome State Fault Refusal := .next (s.rowCommand .bc1 id)

/-- SIZE.4 (42_control.md R192). -/
def execSize4 (s : State) : Host.Outcome State Fault Refusal := .next (s.rowCommand .bc4 id)

/-- SIZE.8 (42_control.md R193). -/
def execSize8 (s : State) : Host.Outcome State Fault Refusal := .next (s.rowCommand .bc8 id)

/-- SIZE.24 (42_control.md R194). -/
def execSize24 (s : State) : Host.Outcome State Fault Refusal := .next (s.rowCommand .bc24 id)

/-- SIZE.32 (42_control.md R195). -/
def execSize32 (s : State) : Host.Outcome State Fault Refusal := .next (s.rowCommand .bc32 id)

/-- GENRAMP.1 (42_control.md R197). -/
def execGenramp1 (s : State) : Host.Outcome State Fault Refusal := .next (s.genramp .bc1).finish

/-- GENRAMP.4 (42_control.md R198). -/
def execGenramp4 (s : State) : Host.Outcome State Fault Refusal := .next (s.genramp .bc4).finish

/-- GENRAMP.8 (42_control.md R199). -/
def execGenramp8 (s : State) : Host.Outcome State Fault Refusal := .next (s.genramp .bc8).finish

/-- PALCLR (42_control.md R200). -/
def execPalclr (s : State) : Host.Outcome State Fault Refusal := .next s.clearPalette.finish

end Sys2Proof.Machine
end

