-- ==== Sys2Proof/Machine/Pack.lean ====
section
/-! DEFINITION. The meanings of the PACK family (41_pack.md), each the whole ENGINE step of its command. -/

namespace Sys2Proof.Machine

/-- PACK.1 (41_pack.md R163). -/
def execPack1 (s : State) : Host.Outcome State Fault Refusal :=
  .next (s.rowCommand .bc1 (State.packIndexed .bc1 packByte1))

/-- PACK.4 (41_pack.md R164). -/
def execPack4 (s : State) : Host.Outcome State Fault Refusal :=
  .next (s.rowCommand .bc4 (State.packIndexed .bc4 packByte4))

/-- PACK.8 (41_pack.md R165). -/
def execPack8 (s : State) : Host.Outcome State Fault Refusal :=
  .next (s.rowCommand .bc8 (State.packIndexed .bc8 (fun _ => packByte8)))

/-- PACK.24 (41_pack.md R166). -/
def execPack24 (s : State) : Host.Outcome State Fault Refusal :=
  .next (s.rowCommand .bc24 (State.packDirect .bc24 tripleOf))

/-- PACK.32 (41_pack.md R167). -/
def execPack32 (s : State) : Host.Outcome State Fault Refusal :=
  .next (s.rowCommand .bc32 (State.packDirect .bc32 quadOf))

end Sys2Proof.Machine
end

