-- ==== Sys2Proof/Machine/Unpack.lean ====
section
/-! DEFINITION. The meanings of the UNPACK family (40_unpack.md), each the whole ENGINE step of its command. -/

namespace Sys2Proof.Machine

/-- UNPACK.1 (40_unpack.md R136). -/
def execUnpack1 (s : State) : Host.Outcome State Fault Refusal :=
  .next (s.rowCommand .bc1 (State.unpackIndexed index1))

/-- UNPACK.4 (40_unpack.md R137). -/
def execUnpack4 (s : State) : Host.Outcome State Fault Refusal :=
  .next (s.rowCommand .bc4 (State.unpackIndexed index4))

/-- UNPACK.8 (40_unpack.md R138). -/
def execUnpack8 (s : State) : Host.Outcome State Fault Refusal :=
  .next (s.rowCommand .bc8 (State.unpackIndexed index8))

/-- UNPACK.24 (40_unpack.md R139). -/
def execUnpack24 (s : State) : Host.Outcome State Fault Refusal :=
  .next (s.rowCommand .bc24 (State.unpackDirect 3))

/-- UNPACK.32 (40_unpack.md R140). -/
def execUnpack32 (s : State) : Host.Outcome State Fault Refusal :=
  .next (s.rowCommand .bc32 (State.unpackDirect 4))

end Sys2Proof.Machine
end

