-- ==== Sys2Proof/Machine/Dispatch.lean ====
section
/-! DEFINITION. The dispatch from a command to its meaning (30_encoding.md R104 step 5, R106). -/

namespace Sys2Proof.Machine

def exec (i : Instr) (s : State) : Host.Outcome State Fault Refusal :=
  match i with
  | .nop => Sys2Proof.Machine.execNop s
  | .unpack1 => Sys2Proof.Machine.execUnpack1 s
  | .unpack4 => Sys2Proof.Machine.execUnpack4 s
  | .unpack8 => Sys2Proof.Machine.execUnpack8 s
  | .unpack24 => Sys2Proof.Machine.execUnpack24 s
  | .unpack32 => Sys2Proof.Machine.execUnpack32 s
  | .pack1 => Sys2Proof.Machine.execPack1 s
  | .pack4 => Sys2Proof.Machine.execPack4 s
  | .pack8 => Sys2Proof.Machine.execPack8 s
  | .pack24 => Sys2Proof.Machine.execPack24 s
  | .pack32 => Sys2Proof.Machine.execPack32 s
  | .size1 => Sys2Proof.Machine.execSize1 s
  | .size4 => Sys2Proof.Machine.execSize4 s
  | .size8 => Sys2Proof.Machine.execSize8 s
  | .size24 => Sys2Proof.Machine.execSize24 s
  | .size32 => Sys2Proof.Machine.execSize32 s
  | .genramp1 => Sys2Proof.Machine.execGenramp1 s
  | .genramp4 => Sys2Proof.Machine.execGenramp4 s
  | .genramp8 => Sys2Proof.Machine.execGenramp8 s
  | .palclr => Sys2Proof.Machine.execPalclr s

end Sys2Proof.Machine
end

