-- ==== Sys2Proof/Machine/Engine.lean ====
section
/-! DEFINITION. The steps of the two agents and of the reset input, and which comes next (00_scope.md R11,
10_state.md R30, 20_memory.md R73). -/

namespace Sys2Proof.Machine

/-- One ENGINE step: decode CMD and execute it; an illegal word completes as an error (10_state.md R30,
30_encoding.md R104, R107). -/
def State.engineStep (s : State) : Host.Outcome State Fault Refusal :=
  match decode s.cmd with
  | .command i => exec i s
  | .illegal code => .next (s.finishError code)

/-- Drop the host's current operation, if it is finished, and keep the response. -/
def State.respond (program : List HostOp) (r : BusResponse) (s : State) : State :=
  { s with env := { s.env with program := program, responses := r :: s.env.responses } }

/-- One host step: the access of the program's first operation. POLL stays until its condition holds
(30_encoding.md R110). A host with no program left does nothing. -/
def State.hostStep (s : State) : State :=
  match s.env.program with
  | [] => s
  | .read off bytes :: rest => s.respond rest (s.busRead off bytes)
  | .write off bytes v :: rest => (s.busWrite off bytes v).1.respond rest (s.busWrite off bytes v).2
  | .poll off mask v :: rest =>
    if (s.busRead off 4).data &&& mask = v then s.respond rest (s.busRead off 4)
    else s.respond (.poll off mask v :: rest) (s.busRead off 4)

/-- Whose turn it is: the schedule's first entry; with none left, the ENGINE while a command is pending, so that it
is taken in the end (00_scope.md R12), and else the host (log entry 4). -/
def State.turn (s : State) : Turn :=
  match s.env.schedule with
  | t :: _ => t
  | [] => if s.busy then .engine else .host

/-- Use up the schedule's first entry. -/
def State.nextTurn (s : State) : State := { s with env := { s.env with schedule := s.env.schedule.tail } }

/-- One turn of an agent. The ENGINE's step is enabled only while BUSY = 1 (10_state.md R30); otherwise nothing
happens. -/
def State.take (t : Turn) (s : State) : Host.Outcome State Fault Refusal :=
  match t with
  | .host => .next s.hostStep
  | .engine => if s.busy then s.engineStep else .next s
  | .reset => .next s.hardReset

/-- Place a command word for the ENGINE's next step: the accepted CMD write of 10_state.md R21, and the ENGINE
moving next (log entry 5). -/
def State.placeCommand (v : Word) (s : State) : State :=
  { s.acceptCommand v with env := { s.env with schedule := .engine :: s.env.schedule } }

end Sys2Proof.Machine
end

