-- ==== Sys2Proof/Machine/Step.lean ====
section
/-! DEFINITION. One step of the machine, and how a word is placed for it to run. -/

namespace Sys2Proof.Machine

/-- One event of the one interleaving of host accesses, ENGINE steps and hardware resets (20_memory.md R73). -/
def step (s : State) : Host.Outcome State Fault Refusal := s.nextTurn.take s.turn

/-- `s` with the instruction of `nbits` bits `w` pending, so that the very next step is the ENGINE step that decodes
and executes it. -/
def State.withFetchWord (s : State) (nbits w : Nat) : State := s.placeCommand (tableWord nbits w)

end Sys2Proof.Machine
end

