-- ==== Sys2Proof/Machine/HostProgram.lean ====
section
/-! DEFINITION. The host-program notation of 30_encoding.md R110 and R111, and the host's programs for one row and
one palette (20_memory.md R83 to R86, 70_reset_and_hazards.md R253, R254). The block does not contain them: they are
what a host may put in `env.program`. -/

namespace Sys2Proof.Machine

/-- One line of a host program (30_encoding.md R110, R111). -/
inductive HostLine
  | wr (off : Offset) (v : Word)
  /-- `RD off -> name`. -/
  | rd (off : Offset) (name : String)
  /-- `RD off == v`: the expected value is the reader's, and the access is the same (log entry 15). -/
  | rdExpect (off : Offset) (v : Word)
  | poll (off : Offset) (mask v : Word)
  | issue (i : Instr)
  | wait
  | clrst
deriving DecidableEq, Repr

/-- The bus operation a line stands for (30_encoding.md R110, R111). -/
def HostLine.expand : HostLine → HostOp
  | .wr off v => .write off 4 v
  | .rd off _ => .read off 4
  | .rdExpect off _ => .read off 4
  | .poll off mask v => .poll off mask v
  | .issue i => .write 0x000 4 (encode i)
  | .wait => .poll 0x004 0x00000001 0x00000000
  | .clrst => .write 0x004 4 0x00000006

/-- A program's operations, in order. -/
def expandProgram (ls : List HostLine) : List HostOp := ls.map HostLine.expand

/-- Four file bytes as one bus word, the first in bits 7 to 0 (20_memory.md R64, R81). -/
def wordOfBytes (b0 b1 b2 b3 : Byte) : Word := b3 ++ b2 ++ b1 ++ b0

/-- Writes of successive words from an offset. -/
def writesFrom (base : Nat) : List Word → List HostLine
  | [] => []
  | v :: vs => .wr (BitVec.ofNat 18 base) v :: writesFrom (base + 4) vs

/-- Reads of `n` successive words from an offset. -/
def readsFrom (base n : Nat) : List HostLine :=
  (List.range n).map (fun k => .rd (BitVec.ofNat 18 (base + 4 * k)) "word")

/-- Load a palette read from a file: record k to PALETTE word k (20_memory.md R83, 70_reset_and_hazards.md R254 (a)). R83
forbids writing more than 256 entries and 91_not_in_source.md N4 leaves open what a host does with more records: DESIGN
CHOICE (log entry 14), the first 256 are loaded and the others dropped. -/
def loadPalette (records : List Word) : List HostLine := writesFrom 0x400 (records.take 256)

/-- The file offset of stored row `r` (20_memory.md R84). -/
def storedRowOffset (offsetData : Nat) (bc : BitCount) (w r : Nat) : Nat := offsetData + r * rowStrideLen bc w

/-- The UNPACK command of a bit count. -/
def unpackInstr : BitCount → Instr
  | .bc1 => .unpack1
  | .bc4 => .unpack4
  | .bc8 => .unpack8
  | .bc24 => .unpack24
  | .bc32 => .unpack32

/-- The PACK command of a bit count. -/
def packInstr : BitCount → Instr
  | .bc1 => .pack1
  | .bc4 => .pack4
  | .bc8 => .pack8
  | .bc24 => .pack24
  | .bc32 => .pack32

/-- Decode one stored row of `w` pixels, its words given (20_memory.md R85); the STATUS read is step (7)'s. R85 says only
"Checks ERR = 0" and leaves open what the host does when ERR = 1: DESIGN CHOICE (log entry 15), the program reads STATUS,
compares nothing, and goes on to step (8). -/
def decodeRow (bc : BitCount) (w : Nat) (row : List Word) : List HostLine :=
  [.wait, .wr 0x00C (BitVec.ofNat 32 w)] ++ writesFrom 0x10000 row ++
    [.clrst, .issue (unpackInstr bc), .wait, .rd 0x004 "status"] ++ readsFrom 0x20000 w

/-- Encode one row of `w` pixels, their words given (20_memory.md R86); the STATUS read is step (7)'s. R86 says only
"Checks ERR = 0" and leaves open what the host does when ERR = 1: DESIGN CHOICE (log entry 15), the program reads STATUS,
compares nothing, and goes on to step (8). -/
def encodeRow (bc : BitCount) (w : Nat) (pixels : List Word) : List HostLine :=
  [.wait, .wr 0x00C (BitVec.ofNat 32 w)] ++ writesFrom 0x20000 pixels ++
    [.clrst, .issue (packInstr bc), .wait, .rd 0x004 "status"] ++ readsFrom 0x10000 (rowStrideLen bc w / 4)

end Sys2Proof.Machine
end

