-- ==== Sys2Proof/Safety.lean ====
section
/-! DEFINITION. What a safe run is, and the invariant of the block's state. -/

namespace Sys2Proof.Machine

/-- A step that goes on: every command completes and every access is answered (00_scope.md R12). -/
def State.GoesOn (s : State) : Prop := ∃ t, step s = .next t

/-- The invariant that every step keeps: the local memories are in canonical form and inside their bounds
(10_state.md R35 to R37), a valid palette entry has been written (R38), ERRCODE is 0 exactly while ERR is 0 (R25,
60_exceptions.md R224), and the geometry registers hold the geometry of some row that fits (40_unpack.md R131,
R132). -/
structure State.Inv (s : State) : Prop where
  rowbuf_wf : Memory.wf s.rowbuf
  pixbuf_wf : Memory.wf s.pixbuf
  pal_wf : Memory.wf s.pal
  rowbuf_bound : ∀ j, 4 * maxWidth ≤ j → Memory.read s.rowbuf j = none
  pixbuf_bound : ∀ i, maxWidth ≤ i → Memory.read s.pixbuf i = none
  pal_bound : ∀ k, 256 ≤ k → Memory.read s.pal k = none
  valid_written : ∀ k, s.valid k = true → (Memory.read s.pal k).isSome = true
  errCode_iff : s.errCode = .noError ↔ s.err = false
  rowPad_lt : s.rowPad.toNat < 4
  rowStride_sum : s.rowStride.toNat = s.rowData.toNat + s.rowPad.toNat
  rowStride_aligned : s.rowStride.toNat % 4 = 0
  rowStride_fits : s.rowStride.toNat ≤ 4 * maxWidth

end Sys2Proof.Machine
end

