-- ==== Sys2Proof/Certificates/Slice0/Obligations.lean ====
section
/-! DEFINITION. The statements for the provers, each a proposition about the machine with the rule of spec/ it
formalises in its docstring. The vocabulary they share comes first. -/

namespace Sys2Proof.Claims

open Sys2Proof.Machine

/-! ### Frames -/

/-- No register that the host writes, no reset count and nothing of the environment differs. -/
def SameControl (s t : State) : Prop :=
  t.cmd = s.cmd ∧ t.wSnap = s.wSnap ∧ t.ieDone = s.ieDone ∧ t.ieErr = s.ieErr ∧ t.width = s.width ∧
    t.resets = s.resets ∧ t.env = s.env

/-- The geometry registers do not differ. -/
def SameGeometry (s t : State) : Prop :=
  t.rowData = s.rowData ∧ t.rowPad = s.rowPad ∧ t.rowStride = s.rowStride

/-- No palette entry and no valid flag differs. -/
def SamePalette (s t : State) : Prop := t.pv = s.pv ∧ ∀ k, t.palEntry k = s.palEntry k

/-- No ROWBUF byte differs. -/
def SameRowbuf (s t : State) : Prop := ∀ j, t.rowByte j = s.rowByte j

/-- No PIXBUF entry differs. -/
def SamePixbuf (s t : State) : Prop := ∀ i, t.pixel i = s.pixel i

/-- No local memory differs. -/
def SameMemories (s t : State) : Prop := SamePalette s t ∧ SameRowbuf s t ∧ SamePixbuf s t

/-- BUSY, DONE, ERR and ERRCODE do not differ. -/
def SameStatus (s t : State) : Prop :=
  t.busy = s.busy ∧ t.done = s.done ∧ t.err = s.err ∧ t.errCode = s.errCode

/-- Nothing that R39 lists as state differs; the environment may. -/
def SameBlock (s t : State) : Prop :=
  t.cmd = s.cmd ∧ t.wSnap = s.wSnap ∧ t.ieDone = s.ieDone ∧ t.ieErr = s.ieErr ∧ t.width = s.width ∧
    SameStatus s t ∧ SameGeometry s t ∧ SameMemories s t

/-! ### How a command ends -/

/-- The flags after an ENGINE step that raises no error. -/
def EndsWell (s t : State) : Prop :=
  t.busy = false ∧ t.done = true ∧ t.err = s.err ∧ t.errCode = s.errCode

/-- The flags after an ENGINE step that raises `code`: the first error is the one kept. -/
def EndsInError (code : ErrCode) (s t : State) : Prop :=
  t.busy = false ∧ t.done = true ∧ t.err = true ∧ t.errCode = if s.err then s.errCode else code

/-- The geometry registers hold the geometry of a row of `w` pixels at `bc` bits each. -/
def GeometryIs (bc w : Nat) (t : State) : Prop :=
  t.rowData.toNat = (w * bc + 7) / 8 ∧ t.rowPad.toNat = (4 - (w * bc + 7) / 8 % 4) % 4 ∧
    t.rowStride.toNat = t.rowData.toNat + t.rowPad.toNat

/-- The stride of a row of `w` pixels at `bc` bits each. -/
def strideOf (bc w : Nat) : Nat := (w * bc + 7) / 8 + (4 - (w * bc + 7) / 8 % 4) % 4

/-! ### Indices in a stored row -/

/-- The index of pixel `x` in a 1-bit row: bit 7 − (x mod 8) of byte x div 8. -/
def bitIndex (s : State) (x : Nat) : Nat := if (s.rowByte (x / 8)).getLsbD (7 - x % 8) then 1 else 0

/-- The index of pixel `x` in a 4-bit row: the high half of byte x div 2 for even x, the low half for odd x. -/
def nibbleIndex (s : State) (x : Nat) : Nat :=
  if x % 2 = 0 then (s.rowByte (x / 2)).toNat / 16 else (s.rowByte (x / 2)).toNat % 16

/-- The index of pixel `x` in an 8-bit row: byte x. -/
def byteIndex (s : State) (x : Nat) : Nat := (s.rowByte x).toNat

/-- `k` is the lowest valid palette index below `n` with colour `p`. -/
def LowestMatch (s : State) (n : Nat) (p : Pixel) (k : Nat) : Prop :=
  k < n ∧ s.valid k = true ∧ (s.palEntry k).colour = p ∧
    ∀ m, m < k → s.valid m = true → (s.palEntry m).colour ≠ p

/-! ### The shapes of the row commands' statements -/

/-- A row command whose width is out of range ends in WIDTH_RANGE and does nothing else. -/
def RejectsWideRows (i : Instr) : Prop :=
  ∀ s : State, maxWidth < s.w →
    ∃ t, exec i s = .next t ∧ EndsInError .widthRange s t ∧ SameControl s t ∧ SameGeometry s t ∧ SameMemories s t

/-- UNPACK at a palette depth: what its ENGINE step does in every case. -/
def UnpacksIndexed (i : Instr) (bc : Nat) (index : State → Nat → Nat) : Prop :=
  ∀ s : State, s.w ≤ maxWidth →
    ∃ t, exec i s = .next t ∧ GeometryIs bc s.w t ∧ SameControl s t ∧ SamePalette s t ∧ SameRowbuf s t ∧
      ((∃ x, x < s.w ∧ s.valid (index s x) = false) → EndsInError .palInvalid s t ∧ SamePixbuf s t) ∧
      ((∀ x, x < s.w → s.valid (index s x) = true) →
        EndsWell s t ∧ (∀ x, x < s.w → t.pixel x = (s.palEntry (index s x)).colour) ∧
          ∀ i, s.w ≤ i → t.pixel i = s.pixel i)

/-- UNPACK at a direct depth of `n` bytes a pixel. -/
def UnpacksDirect (i : Instr) (n : Nat) : Prop :=
  ∀ s : State, s.w ≤ maxWidth →
    ∃ t, exec i s = .next t ∧ EndsWell s t ∧ GeometryIs (8 * n) s.w t ∧ SameControl s t ∧ SamePalette s t ∧
      SameRowbuf s t ∧
      (∀ x, x < s.w → (t.pixel x).b = s.rowByte (n * x) ∧ (t.pixel x).g = s.rowByte (n * x + 1) ∧
        (t.pixel x).r = s.rowByte (n * x + 2)) ∧
      ∀ i, s.w ≤ i → t.pixel i = s.pixel i

/-- PACK at a palette depth of `ppb` pixels a byte: what its ENGINE step does in every case. The packed bytes are
said through the index that each pixel's position holds afterwards. -/
def PacksIndexed (i : Instr) (bc ppb : Nat) (index : State → Nat → Nat) : Prop :=
  ∀ s : State, s.w ≤ maxWidth →
    ∃ t, exec i s = .next t ∧ GeometryIs bc s.w t ∧ SameControl s t ∧ SamePalette s t ∧ SamePixbuf s t ∧
      ((∃ x, x < s.w ∧ ∀ k, k < 2 ^ bc → s.valid k = true → (s.palEntry k).colour ≠ s.pixel x) →
        EndsInError .palNoMatch s t ∧ SameRowbuf s t) ∧
      ((∀ x, x < s.w → ∃ k, k < 2 ^ bc ∧ s.valid k = true ∧ (s.palEntry k).colour = s.pixel x) →
        EndsWell s t ∧ (∀ x, x < s.w → LowestMatch s (2 ^ bc) (s.pixel x) (index t x)) ∧
          (∀ x, s.w ≤ x → x < ppb * t.rowData.toNat → index t x = 0) ∧
          (∀ j, t.rowData.toNat ≤ j → j < t.rowStride.toNat → t.rowByte j = 0) ∧
          ∀ j, t.rowStride.toNat ≤ j → t.rowByte j = s.rowByte j)

/-- PACK at a direct depth of `n` bytes a pixel, `n` being 3 or 4. -/
def PacksDirect (i : Instr) (n : Nat) : Prop :=
  ∀ s : State, s.w ≤ maxWidth →
    ∃ t, exec i s = .next t ∧ EndsWell s t ∧ GeometryIs (8 * n) s.w t ∧ SameControl s t ∧ SamePalette s t ∧
      SamePixbuf s t ∧
      (∀ x, x < s.w → t.rowByte (n * x) = (s.pixel x).b ∧ t.rowByte (n * x + 1) = (s.pixel x).g ∧
        t.rowByte (n * x + 2) = (s.pixel x).r ∧ (n = 4 → t.rowByte (n * x + 3) = 0)) ∧
      (∀ j, n * s.w ≤ j → j < t.rowStride.toNat → t.rowByte j = 0) ∧
      ∀ j, t.rowStride.toNat ≤ j → t.rowByte j = s.rowByte j

/-- SIZE: the geometry and nothing else. -/
def Sizes (i : Instr) (bc : Nat) : Prop :=
  ∀ s : State, s.w ≤ maxWidth →
    ∃ t, exec i s = .next t ∧ EndsWell s t ∧ GeometryIs bc s.w t ∧ SameControl s t ∧ SameMemories s t

/-- The ramp value of index `k` with the given step, in closed form (42_control.md R196). -/
def rampLevel (step k : Nat) : Nat := if k = 0 then 0 else k * step - 1

/-- GENRAMP: entries 0 to 2^bc − 1 hold the ramp and are valid, and nothing else changes. -/
def Ramps (i : Instr) (bc : Nat) : Prop :=
  ∀ s : State, ∃ t, exec i s = .next t ∧ EndsWell s t ∧ SameControl s t ∧ SameGeometry s t ∧ SameRowbuf s t ∧
    SamePixbuf s t ∧
    (∀ k, k < 2 ^ bc → t.valid k = true ∧ (t.palEntry k).b.toNat = rampLevel (2 ^ (8 - bc)) k ∧
      (t.palEntry k).g.toNat = rampLevel (2 ^ (8 - bc)) k ∧ (t.palEntry k).r.toNat = rampLevel (2 ^ (8 - bc)) k ∧
      (t.palEntry k).rsv = 0) ∧
    ∀ k, 2 ^ bc ≤ k → t.valid k = s.valid k ∧ t.palEntry k = s.palEntry k

/-! ### Round trips -/

/-- PACK, then UNPACK in any state that still holds the width, the palette and the stored row: the pixels come back
(41_pack.md R168). -/
def PackThenUnpack (p u : Instr) (bc : Nat) : Prop :=
  ∀ s s1 s2 : State, s.w ≤ maxWidth → s.err = false → exec p s = .next s1 → s1.err = false →
    s2.wSnap = s1.wSnap → s2.err = false → SamePalette s1 s2 →
    (∀ j, j < strideOf bc s.w → s2.rowByte j = s1.rowByte j) →
    ∃ t, exec u s2 = .next t ∧ t.err = false ∧ ∀ x, x < s.w → t.pixel x = s.pixel x

/-- UNPACK, then PACK in any state that still holds the width, the palette and the pixels, at a palette depth of `ppb`
pixels a byte (41_pack.md R169). -/
def UnpackThenPackIndexed (u p : Instr) (bc ppb : Nat) (index : State → Nat → Nat) : Prop :=
  ∀ s s1 s2 : State, s.w ≤ maxWidth → s.err = false → exec u s = .next s1 → s1.err = false →
    s2.wSnap = s1.wSnap → s2.err = false → SamePalette s1 s2 → (∀ x, x < s.w → s2.pixel x = s1.pixel x) →
    ∃ t, exec p s2 = .next t ∧ t.err = false ∧
      (∀ x, x < s.w → LowestMatch s (2 ^ bc) (s.palEntry (index s x)).colour (index t x)) ∧
      (∀ x, s.w ≤ x → x < ppb * ((s.w * bc + 7) / 8) → index t x = 0) ∧
      (∀ j, (s.w * bc + 7) / 8 ≤ j → j < strideOf bc s.w → t.rowByte j = 0) ∧
      ((∀ x, s.w ≤ x → x < ppb * ((s.w * bc + 7) / 8) → index s x = 0) →
        (∀ j, (s.w * bc + 7) / 8 ≤ j → j < strideOf bc s.w → s.rowByte j = 0) →
        (∀ k m, k < 2 ^ bc → m < 2 ^ bc → s.valid k = true → s.valid m = true →
          (s.palEntry k).colour = (s.palEntry m).colour → k = m) →
        ∀ j, j < strideOf bc s.w → t.rowByte j = s.rowByte j)

/-- UNPACK, then PACK, at a direct depth of `n` bytes a pixel (41_pack.md R169). -/
def UnpackThenPackDirect (u p : Instr) (n : Nat) : Prop :=
  ∀ s s1 s2 : State, s.w ≤ maxWidth → s.err = false → exec u s = .next s1 →
    s2.wSnap = s1.wSnap → s2.err = false → (∀ x, x < s.w → s2.pixel x = s1.pixel x) →
    ∃ t, exec p s2 = .next t ∧ t.err = false ∧
      (∀ j, j < n * s.w → j % n ≠ 3 → t.rowByte j = s.rowByte j) ∧
      (∀ j, j < n * s.w → j % n = 3 → t.rowByte j = 0) ∧
      ∀ j, n * s.w ≤ j → j < strideOf (8 * n) s.w → t.rowByte j = 0

/-! ### Command words, by arithmetic on their bits -/

/-- The OP field of a command word as a number. -/
def opOf (w : Word) : Nat := w.toNat % 16

/-- The BC field of a command word as a number. -/
def bcOf (w : Word) : Nat := w.toNat / 256 % 64

/-- A word that the format checks reject (30_encoding.md R104 step 1, 60_exceptions.md R223). -/
def BadOpWord (w : Word) : Prop :=
  w.toNat / 16384 ≠ 0 ∨ w.toNat / 16 % 16 ≠ 0 ∨ 6 ≤ opOf w ∨ ((opOf w = 0 ∨ opOf w = 5) ∧ bcOf w ≠ 0)

/-- A word that passes the format checks and whose bit count its OP does not have (30_encoding.md R104 step 2,
60_exceptions.md R222). -/
def UnsupportedWord (w : Word) : Prop :=
  ¬ BadOpWord w ∧
    (((opOf w = 1 ∨ opOf w = 2 ∨ opOf w = 3) ∧ bcOf w ∉ [1, 4, 8, 24, 32]) ∨ (opOf w = 4 ∧ bcOf w ∉ [1, 4, 8]))

/-- The row commands: UNPACK, PACK and SIZE. -/
def rowCommands : List Instr :=
  [.unpack1, .unpack4, .unpack8, .unpack24, .unpack32, .pack1, .pack4, .pack8, .pack24, .pack32,
    .size1, .size4, .size8, .size24, .size32]

/-! ### What a step is -/

/-- The next step is an ENGINE step: it is the ENGINE's turn and a command is pending. -/
def EngineMoves (s : State) : Prop := s.turn = .engine ∧ s.busy = true

/-- The next step is the host's, and its next operation is `op`. -/
def HostMoves (s : State) (op : HostOp) : Prop := s.turn = .host ∧ s.env.program.head? = some op

/-- The next step is a host write of `v` that reaches the register or word at `l`. -/
def HostWrites (s : State) (l : Loc) (v : Word) : Prop :=
  ∃ off, HostMoves s (.write off 4 v) ∧ s.target off 4 = some l

/-- The next step resets the block: the reset input, or a host write of CTRL with bit 31 set. -/
def Resets (s : State) : Prop := s.turn = .reset ∨ ∃ v, HostWrites s .ctrl v ∧ v.getLsbD 31 = true

/-- The next step is the ENGINE step of command `i`. -/
def Executes (s : State) (i : Instr) : Prop := EngineMoves s ∧ decode s.cmd = .command i

/-- The response to the access just made. -/
def lastResponse (t : State) : Option BusResponse := t.env.responses.head?

/-- Two states that differ at most in the host's view, the destination buffers left to the statement: what a command
reads besides ROWBUF, PIXBUF and the palette. -/
def SameOperands (s s' : State) : Prop :=
  s'.wSnap = s.wSnap ∧ s'.err = s.err ∧ s'.errCode = s.errCode

end Sys2Proof.Claims

open Sys2Proof Sys2Proof.Machine Sys2Proof.Claims

/-! ## Reset -/

/-- 70_reset_and_hazards.md R250: hardware reset, whenever it comes, puts every register, flag and valid flag at its
reset value, abandons a pending command, and leaves IRQ at 0. `State.reset` has the same values. What PAL, ROWBUF and
PIXBUF hold is unspecified and not stated. -/
def Obligations.HardwareResetValues : Prop :=
  (∀ s : State, s.turn = .reset →
    ∃ t, step s = .next t ∧ t.cmd = 0 ∧ t.wSnap = 0 ∧ t.width = 0 ∧ t.rowData = 0 ∧ t.rowPad = 0 ∧ t.rowStride = 0 ∧
      t.busy = false ∧ t.done = false ∧ t.err = false ∧ t.errCode = .noError ∧ t.ieDone = false ∧ t.ieErr = false ∧
      (∀ k, t.valid k = false) ∧ t.irq = false) ∧
  (State.reset.cmd = 0 ∧ State.reset.wSnap = 0 ∧ State.reset.width = 0 ∧ State.reset.rowData = 0 ∧
    State.reset.rowPad = 0 ∧ State.reset.rowStride = 0 ∧ State.reset.busy = false ∧ State.reset.done = false ∧
    State.reset.err = false ∧ State.reset.errCode = .noError ∧ State.reset.ieDone = false ∧
    State.reset.ieErr = false ∧ (∀ k, State.reset.valid k = false) ∧ State.reset.irq = false)

/-- 70_reset_and_hazards.md R252: the block does nothing on its own. With no command pending and nothing for the host
to do, a step changes nothing but the schedule, which is the model's (log entry 4), unless the reset input is asserted. -/
def Obligations.IdleBlockDoesNothing : Prop :=
  ∀ s : State, s.busy = false → s.env.program = [] → s.turn ≠ .reset → step s = .next s.nextTurn

/-- 70_reset_and_hazards.md R251, 10_state.md R26: a host write to CTRL with bit 31 set resets every register, flag
and valid flag whether or not a command is pending, abandons that command, and keeps every palette entry, ROWBUF byte
and PIXBUF entry; CTRL then reads 0. -/
def Obligations.SoftResetKeepsMemories : Prop :=
  ∀ (s : State) (v : Word), HostWrites s .ctrl v → v.getLsbD 31 = true →
    ∃ t, step s = .next t ∧ t.cmd = 0 ∧ t.wSnap = 0 ∧ t.width = 0 ∧ t.rowData = 0 ∧ t.rowPad = 0 ∧ t.rowStride = 0 ∧
      t.busy = false ∧ t.done = false ∧ t.err = false ∧ t.errCode = .noError ∧ t.ieDone = false ∧ t.ieErr = false ∧
      (∀ k, t.valid k = false) ∧ (∀ k, t.palEntry k = s.palEntry k) ∧ SameRowbuf s t ∧ SamePixbuf s t ∧
      t.readLoc .ctrl = 0

/-! ## Encoding -/

/-- 30_encoding.md R106: the twenty words of the opcode map decode to the commands they stand for. -/
def Obligations.OpcodeMapWordsDecode : Prop :=
  decode 0x00000000 = .command .nop ∧ decode 0x00000101 = .command .unpack1 ∧
  decode 0x00000401 = .command .unpack4 ∧ decode 0x00000801 = .command .unpack8 ∧
  decode 0x00001801 = .command .unpack24 ∧ decode 0x00002001 = .command .unpack32 ∧
  decode 0x00000102 = .command .pack1 ∧ decode 0x00000402 = .command .pack4 ∧
  decode 0x00000802 = .command .pack8 ∧ decode 0x00001802 = .command .pack24 ∧
  decode 0x00002002 = .command .pack32 ∧ decode 0x00000103 = .command .size1 ∧
  decode 0x00000403 = .command .size4 ∧ decode 0x00000803 = .command .size8 ∧
  decode 0x00001803 = .command .size24 ∧ decode 0x00002003 = .command .size32 ∧
  decode 0x00000104 = .command .genramp1 ∧ decode 0x00000404 = .command .genramp4 ∧
  decode 0x00000804 = .command .genramp8 ∧ decode 0x00000005 = .command .palclr

/-- 30_encoding.md R100, R106, R107: decoding the word of any command gives it back, and a word that decodes to a
command is that command's word, so that no bit is dropped and no two words name one command. -/
def Obligations.DecodeAndEncodeAgree : Prop :=
  (∀ i : Instr, decode (encode i) = .command i) ∧ ∀ (w : Word) (i : Instr), decode w = .command i → w = encode i

/-- 30_encoding.md R104, R105, R107: which of the 2^32 words are illegal, and with which of the two codes, the format
checks coming first. -/
def Obligations.IllegalWordsClassified : Prop :=
  ∀ w : Word, (decode w = .illegal .badOp ↔ BadOpWord w) ∧ (decode w = .illegal .unsupported ↔ UnsupportedWord w) ∧
    ((∃ i, decode w = .command i) ↔ ¬ BadOpWord w ∧ ¬ UnsupportedWord w)

/-- 60_exceptions.md R223: a word with a reserved bit set, a reserved OP, or a bit count for NOP or PALCLR completes
with BAD_OP, and no state other than STATUS changes. -/
def Obligations.BadOpChangesStatusOnly : Prop :=
  ∀ s : State, EngineMoves s → BadOpWord s.cmd →
    ∃ t, step s = .next t ∧ EndsInError .badOp s t ∧ SameControl s.nextTurn t ∧ SameGeometry s t ∧ SameMemories s t

/-- 60_exceptions.md R222: an UNPACK, PACK or SIZE whose bit count is not 1, 4, 8, 24 or 32, or a GENRAMP whose bit
count is not 1, 4 or 8, completes with UNSUPPORTED whatever the width, and no state other than STATUS changes. The word of UNPACK with BC = 16
is one of them. -/
def Obligations.UnsupportedChangesStatusOnly : Prop :=
  UnsupportedWord 0x00001001 ∧
  ∀ s : State, EngineMoves s → UnsupportedWord s.cmd →
    ∃ t, step s = .next t ∧ EndsInError .unsupported s t ∧ SameControl s.nextTurn t ∧ SameGeometry s t ∧
      SameMemories s t

/-- 60_exceptions.md R225: every UNPACK, PACK and SIZE with W > MAX_WIDTH completes with WIDTH_RANGE and leaves the
buffers, the palette and the geometry registers as they were. -/
def Obligations.WideRowsRejected : Prop := ∀ i ∈ rowCommands, RejectsWideRows i

/-- 60_exceptions.md R229: an ENGINE step reports at most one error, the first that applies of BAD_OP, UNSUPPORTED,
WIDTH_RANGE and the command's own data error, which is PAL_INVALID for UNPACK and PAL_NOMATCH for PACK; the one reported
is recorded in ERR and ERRCODE (R224). -/
def Obligations.OneErrorInPriorityOrder : Prop :=
  ∀ s t : State, EngineMoves s → s.err = false → step s = .next t →
    (BadOpWord s.cmd → t.err = true ∧ t.errCode = .badOp) ∧
    (UnsupportedWord s.cmd → t.err = true ∧ t.errCode = .unsupported) ∧
    (¬ BadOpWord s.cmd → ¬ UnsupportedWord s.cmd → 1 ≤ opOf s.cmd → opOf s.cmd ≤ 3 → maxWidth < s.w →
      t.err = true ∧ t.errCode = .widthRange) ∧
    (¬ BadOpWord s.cmd → ¬ UnsupportedWord s.cmd → (opOf s.cmd = 0 ∨ 4 ≤ opOf s.cmd ∨ s.w ≤ maxWidth) →
      t.err = false ∨ (opOf s.cmd = 1 ∧ t.err = true ∧ t.errCode = .palInvalid) ∨
        (opOf s.cmd = 2 ∧ t.err = true ∧ t.errCode = .palNoMatch))

/-! ## The step -/

/-- 10_state.md R30, 30_encoding.md R104: when it is the ENGINE's turn and CMD decodes to a command, the step is that
command's execution, in the state with the turn used up. -/
def Obligations.StepRunsDecodedCommand : Prop :=
  ∀ (s : State) (i : Instr), EngineMoves s → decode s.cmd = .command i → step s = exec i s.nextTurn

/-- 00_scope.md R12, 10_state.md R30: every step goes on, and an ENGINE step, whatever word is in CMD, ends with BUSY
0 and DONE 1. -/
def Obligations.EveryStepGoesOn : Prop :=
  ∀ s : State, ∃ t, step s = .next t ∧ (EngineMoves s → t.busy = false ∧ t.done = true)

/-- 00_scope.md R12, 70_reset_and_hazards.md R262: no command hangs. Whatever the schedule and the host's program, a
pending command has been executed or abandoned once the scheduled turns and one more have passed. That the schedule is
finite and then gives the ENGINE its turn is the model's choice for weak fairness (log entry 4). -/
def Obligations.NoCommandHangs : Prop :=
  ∀ s : State, s.busy = true →
    ∃ n t, n ≤ s.env.schedule.length + 1 ∧ Host.Core.run core n s = .next t ∧ t.busy = false

/-- The invariant of the block (Safety.lean, where its rules are cited): every step, the host's, the ENGINE's or a reset,
keeps it. That memories are lists of the written locations is the model's choice (log entry 3). -/
def Obligations.EveryStepKeepsInvariant : Prop :=
  ∀ s t : State, s.Inv → step s = .next t → t.Inv

/-- The state after hardware reset meets the invariant. -/
def Obligations.ResetMeetsInvariant : Prop := State.reset.Inv

/-! ## UNPACK -/

/-- 40_unpack.md R136, with R132, R134, R135 and 60_exceptions.md R226 as they bear on it. -/
def Obligations.Unpack1DecodesRow : Prop :=
  decode 0x00000101 = .command .unpack1 ∧ RejectsWideRows .unpack1 ∧ UnpacksIndexed .unpack1 1 bitIndex

/-- 40_unpack.md R137, with R132, R134, R135 and 60_exceptions.md R226 as they bear on it. -/
def Obligations.Unpack4DecodesRow : Prop :=
  decode 0x00000401 = .command .unpack4 ∧ RejectsWideRows .unpack4 ∧ UnpacksIndexed .unpack4 4 nibbleIndex

/-- 40_unpack.md R138, with R132, R134, R135 and 60_exceptions.md R226 as they bear on it. -/
def Obligations.Unpack8DecodesRow : Prop :=
  decode 0x00000801 = .command .unpack8 ∧ RejectsWideRows .unpack8 ∧ UnpacksIndexed .unpack8 8 byteIndex

/-- 40_unpack.md R139: B, G, R triples; no data error. -/
def Obligations.Unpack24DecodesRow : Prop :=
  decode 0x00001801 = .command .unpack24 ∧ RejectsWideRows .unpack24 ∧ UnpacksDirect .unpack24 3

/-- 40_unpack.md R140: B, G, R, reserved quads, the reserved byte dropped; no data error. -/
def Obligations.Unpack32DecodesRow : Prop :=
  decode 0x00002001 = .command .unpack32 ∧ RejectsWideRows .unpack32 ∧ UnpacksDirect .unpack32 4

/-- 40_unpack.md R135 (a), (e): the padding bytes, every byte beyond the data and the unused bits of the last byte have
no part in an UNPACK. Two runs that differ only there end alike. -/
def Obligations.UnpackIgnoresUnusedBits : Prop :=
  ∀ (i : Instr) (bc : Nat) (s s' : State),
    (i, bc) ∈ [(Instr.unpack1, 1), (.unpack4, 4), (.unpack8, 8), (.unpack24, 24), (.unpack32, 32)] →
    SameOperands s s' → SamePalette s s' → SamePixbuf s s' →
    (∀ j, j < (s.w * bc + 7) / 8 → ∀ b, b < 8 → 8 * j + (7 - b) < s.w * bc →
      (s'.rowByte j).getLsbD b = (s.rowByte j).getLsbD b) →
    ∃ t t', exec i s = .next t ∧ exec i s' = .next t' ∧ SamePixbuf t t' ∧ SameStatus t t' ∧
      (s.w ≤ maxWidth → SameGeometry t t')

/-! ## PACK -/

/-- 41_pack.md R163, with R160 to R162 and 60_exceptions.md R227 as they bear on it. -/
def Obligations.Pack1EncodesRow : Prop :=
  decode 0x00000102 = .command .pack1 ∧ RejectsWideRows .pack1 ∧ PacksIndexed .pack1 1 8 bitIndex

/-- 41_pack.md R164, with R160 to R162 and 60_exceptions.md R227 as they bear on it. -/
def Obligations.Pack4EncodesRow : Prop :=
  decode 0x00000402 = .command .pack4 ∧ RejectsWideRows .pack4 ∧ PacksIndexed .pack4 4 2 nibbleIndex

/-- 41_pack.md R165, with R160 to R162 and 60_exceptions.md R227 as they bear on it. -/
def Obligations.Pack8EncodesRow : Prop :=
  decode 0x00000802 = .command .pack8 ∧ RejectsWideRows .pack8 ∧ PacksIndexed .pack8 8 1 byteIndex

/-- 41_pack.md R166: B, G, R triples, zero padding; no data error. -/
def Obligations.Pack24EncodesRow : Prop :=
  decode 0x00001802 = .command .pack24 ∧ RejectsWideRows .pack24 ∧ PacksDirect .pack24 3

/-- 41_pack.md R167: B, G, R, 0 quads; no data error. -/
def Obligations.Pack32EncodesRow : Prop :=
  decode 0x00002002 = .command .pack32 ∧ RejectsWideRows .pack32 ∧ PacksDirect .pack32 4

/-! ## SIZE, GENRAMP, PALCLR, NOP -/

/-- 42_control.md R191 to R195: the geometry registers and nothing else. -/
def Obligations.SizeSetsGeometry : Prop :=
  (decode 0x00000103 = .command .size1 ∧ RejectsWideRows .size1 ∧ Sizes .size1 1) ∧
  (decode 0x00000403 = .command .size4 ∧ RejectsWideRows .size4 ∧ Sizes .size4 4) ∧
  (decode 0x00000803 = .command .size8 ∧ RejectsWideRows .size8 ∧ Sizes .size8 8) ∧
  (decode 0x00001803 = .command .size24 ∧ RejectsWideRows .size24 ∧ Sizes .size24 24) ∧
  (decode 0x00002003 = .command .size32 ∧ RejectsWideRows .size32 ∧ Sizes .size32 32)

/-- 42_control.md R196 to R199: the ramp's entries, valid, and nothing else, for every width, 0xFFFFFFFF among them. -/
def Obligations.GenrampWritesRamp : Prop :=
  (decode 0x00000104 = .command .genramp1 ∧ Ramps .genramp1 1) ∧
  (decode 0x00000404 = .command .genramp4 ∧ Ramps .genramp4 4) ∧
  (decode 0x00000804 = .command .genramp8 ∧ Ramps .genramp8 8)

/-- 42_control.md R200: PALCLR zeroes every entry and clears every valid flag, and changes nothing else; its word with a
bit count or a reserved bit is BAD_OP; and after it every palette command on a row of at least one pixel fails. -/
def Obligations.PalclrClearsPalette : Prop :=
  decode 0x00000005 = .command .palclr ∧
  (∀ s : State, ∃ t, exec .palclr s = .next t ∧ EndsWell s t ∧ SameControl s t ∧ SameGeometry s t ∧ SameRowbuf s t ∧
    SamePixbuf s t ∧ ∀ k, k < 256 → t.valid k = false ∧ t.palEntry k = { b := 0, g := 0, r := 0, rsv := 0 }) ∧
  (∀ w : Word, opOf w = 5 → w ≠ 0x00000005 → decode w = .illegal .badOp) ∧
  ∀ s s1 s2 : State, exec .palclr s = .next s1 → s2.pv = s1.pv → 1 ≤ s2.w → s2.w ≤ maxWidth →
    (∀ i ∈ [Instr.unpack1, .unpack4, .unpack8], ∃ t, exec i s2 = .next t ∧ EndsInError .palInvalid s2 t) ∧
    ∀ i ∈ [Instr.pack1, .pack4, .pack8], ∃ t, exec i s2 = .next t ∧ EndsInError .palNoMatch s2 t

/-- 42_control.md R190: NOP sets DONE and changes nothing else, at any width; its word with a bit count or a reserved
bit is BAD_OP. -/
def Obligations.NopOnlyCompletes : Prop :=
  decode 0x00000000 = .command .nop ∧
  (∀ s : State, ∃ t, exec .nop s = .next t ∧ EndsWell s t ∧ SameControl s t ∧ SameGeometry s t ∧ SameMemories s t) ∧
  ∀ w : Word, opOf w = 0 → w ≠ 0x00000000 → decode w = .illegal .badOp

/-! ## Round trips and what no command uses -/

/-- 41_pack.md R168: PACK, then UNPACK, gives the pixels back. -/
def Obligations.PackThenUnpackRestoresPixels : Prop :=
  PackThenUnpack .pack1 .unpack1 1 ∧ PackThenUnpack .pack4 .unpack4 4 ∧ PackThenUnpack .pack8 .unpack8 8 ∧
    PackThenUnpack .pack24 .unpack24 24 ∧ PackThenUnpack .pack32 .unpack32 32

/-- 41_pack.md R169: UNPACK, then PACK, gives the row back but for the places the law names. -/
def Obligations.UnpackThenPackRestoresRow : Prop :=
  UnpackThenPackIndexed .unpack1 .pack1 1 8 bitIndex ∧ UnpackThenPackIndexed .unpack4 .pack4 4 2 nibbleIndex ∧
    UnpackThenPackIndexed .unpack8 .pack8 8 1 byteIndex ∧ UnpackThenPackDirect .unpack24 .pack24 3 ∧
    UnpackThenPackDirect .unpack32 .pack32 4

/-- 10_state.md R37, R38, 93_implementation_defined.md U2: no command uses an entry that is not valid, nor any reserved
byte. Two states that agree but for those end every command with the same pixels, stored row, flags and geometry. -/
def Obligations.InvalidEntriesNeverUsed : Prop :=
  ∀ (i : Instr) (s s' : State), SameOperands s s' → SameGeometry s s' → SameRowbuf s s' → SamePixbuf s s' →
    s'.pv = s.pv → (∀ k, s.valid k = true → (s'.palEntry k).colour = (s.palEntry k).colour) →
    ∃ t t', exec i s = .next t ∧ exec i s' = .next t' ∧ SamePixbuf t t' ∧ SameRowbuf t t' ∧ SameStatus t t' ∧
      SameGeometry t t' ∧ t'.pv = t.pv

/-! ## Flags, over every step -/

/-- 60_exceptions.md R224, R231: `record_error` keeps the first error and saves nothing else. -/
def Obligations.FirstErrorIsKept : Prop :=
  ∀ (s : State) (code : ErrCode),
    (s.err = false → (s.recordError code).err = true ∧ (s.recordError code).errCode = code) ∧
    (s.err = true → s.recordError code = s) ∧
    SameControl s (s.recordError code) ∧ SameGeometry s (s.recordError code) ∧ SameMemories s (s.recordError code) ∧
    (s.recordError code).busy = s.busy ∧ (s.recordError code).done = s.done

/-- 10_state.md R25: a recorded error and its code stay through every step but a host write to STATUS with bit 2 set and
a reset. -/
def Obligations.ErrorStaysUntilCleared : Prop :=
  ∀ s t : State, step s = .next t → s.err = true →
    (t.err = true ∧ t.errCode = s.errCode) ∨ (∃ v, HostWrites s .status v ∧ v.getLsbD 2 = true) ∨ Resets s

/-- 10_state.md R25, 60_exceptions.md R221, R228: an error comes only from an ENGINE step, with one of the codes 1 to 5, or
from a host write to CMD while BUSY = 1, with CMD_OVERRUN. -/
def Obligations.ErrorsComeFromCommands : Prop :=
  ∀ s t : State, step s = .next t → s.err = false → t.err = true →
    (EngineMoves s ∧ t.errCode ≠ .noError ∧ t.errCode ≠ .cmdOverrun) ∨
      ((∃ v, HostWrites s .cmd v) ∧ s.busy = true ∧ t.errCode = .cmdOverrun)

/-- 10_state.md R23: BUSY rises only by an accepted CMD write and falls only by the ENGINE step that completes the command
and by a reset. -/
def Obligations.BusyRisesAndFalls : Prop :=
  ∀ s t : State, step s = .next t →
    (s.busy = false → t.busy = true → ∃ v, HostWrites s .cmd v ∧ t.cmd = v) ∧
    (s.busy = true → t.busy = false → EngineMoves s ∨ Resets s)

/-- 10_state.md R24: every ENGINE step sets DONE, nothing else does, and it falls by a host write to STATUS with bit 1 set
and by a reset, and by nothing else; an accepted CMD write does not clear it. -/
def Obligations.DoneRisesAndFalls : Prop :=
  ∀ s t : State, step s = .next t →
    (EngineMoves s → t.done = true) ∧ (s.done = false → t.done = true → EngineMoves s) ∧
    (((∃ v, HostWrites s .status v ∧ v.getLsbD 1 = true) ∨ Resets s) → t.done = false) ∧
    (s.done = true → t.done = false → (∃ v, HostWrites s .status v ∧ v.getLsbD 1 = true) ∨ Resets s)

/-- 10_state.md R38: a valid flag rises only by a host write of that PALETTE word and by a GENRAMP that covers it, and
falls only by PALCLR and by a reset. -/
def Obligations.ValidFlagsRiseAndFall : Prop :=
  ∀ (s t : State) (k : Nat), step s = .next t →
    (s.valid k = false → t.valid k = true →
      (∃ v, HostWrites s (.palette k) v) ∨ (Executes s .genramp1 ∧ k < 2) ∨ (Executes s .genramp4 ∧ k < 16) ∨
        (Executes s .genramp8 ∧ k < 256)) ∧
    (s.valid k = true → t.valid k = false → Executes s .palclr ∨ Resets s)

/-- 10_state.md R29, 70_reset_and_hazards.md R260: the geometry registers change only in the ENGINE step of an UNPACK, PACK
or SIZE command whose width is in range, and by a reset. -/
def Obligations.GeometryChangesOnlyByRowCommands : Prop :=
  ∀ s t : State, step s = .next t →
    SameGeometry s t ∨ ((∃ i, i ∈ rowCommands ∧ Executes s i) ∧ s.w ≤ maxWidth) ∨ Resets s

/-- 10_state.md R28, 70_reset_and_hazards.md R257: CMD and W_SNAP change only by an accepted CMD write, which takes the
WIDTH of that moment, and by a reset, so a pending command keeps its word and its width. -/
def Obligations.PendingCommandIsFixed : Prop :=
  ∀ s t : State, step s = .next t →
    (t.cmd = s.cmd ∧ t.wSnap = s.wSnap) ∨
      (s.busy = false ∧ ∃ v, HostWrites s .cmd v ∧ t.cmd = v ∧ t.wSnap = s.width) ∨ Resets s

/-- 20_memory.md R70, R73, R74: while a command is pending and no reset comes, a host step changes neither palette, valid
flags, ROWBUF nor PIXBUF. -/
def Obligations.PendingCommandSeesSteadyMemories : Prop :=
  ∀ s t : State, step s = .next t → s.busy = true → s.turn = .host → ¬ Resets s → SameMemories s t

/-! ## Host accesses -/

/-- 10_state.md R21: CMD, at 0x000, reads the last accepted word in every state, whether or not that command has executed,
and 0 at reset. A CMD write while BUSY = 0 is accepted: CMD takes the word, W_SNAP takes WIDTH, BUSY is set, and nothing
else of the block changes. -/
def Obligations.CmdWriteIsAccepted : Prop :=
  (∀ s : State, s.target 0x000 4 = some .cmd ∧ s.readLoc .cmd = s.cmd) ∧
  State.reset.readLoc .cmd = 0 ∧
  ∀ (s : State) (v : Word), HostWrites s .cmd v → s.busy = false →
    ∃ t, step s = .next t ∧ t.cmd = v ∧ t.wSnap = s.width ∧ t.busy = true ∧ t.done = s.done ∧ t.err = s.err ∧
      t.errCode = s.errCode ∧ t.ieDone = s.ieDone ∧ t.ieErr = s.ieErr ∧ t.width = s.width ∧ SameGeometry s t ∧
      SameMemories s t ∧ t.readLoc .cmd = v

/-- 60_exceptions.md R228, 10_state.md R21: a CMD write while BUSY = 1 is discarded and records CMD_OVERRUN; the pending
command and DONE are unchanged. -/
def Obligations.CmdWriteWhileBusyOverruns : Prop :=
  ∀ (s : State) (v : Word), HostWrites s .cmd v → s.busy = true →
    ∃ t, step s = .next t ∧ t.err = true ∧ (t.errCode = if s.err then s.errCode else .cmdOverrun) ∧
      t.cmd = s.cmd ∧ t.wSnap = s.wSnap ∧ t.busy = true ∧ t.done = s.done ∧ t.ieDone = s.ieDone ∧
      t.ieErr = s.ieErr ∧ t.width = s.width ∧ SameGeometry s t ∧ SameMemories s t

/-- 10_state.md R22: STATUS, at 0x004, reads as its fields stand, 0 at reset, and a write clears DONE where bit 1 is set
and ERR with ERRCODE where bit 2 is set, and changes nothing else. The numbers of the codes in bits 7 to 4 are those of
60_exceptions.md R221. -/
def Obligations.StatusWriteOneToClear : Prop :=
  (∀ s : State, s.target 0x004 4 = some .status ∧ (s.readLoc .status).toNat =
    s.busy.toNat + 2 * s.done.toNat + 4 * s.err.toNat + 16 * s.errCode.bits.toNat) ∧
  (ErrCode.noError.bits.toNat = 0 ∧ ErrCode.badOp.bits.toNat = 1 ∧ ErrCode.unsupported.bits.toNat = 2 ∧
    ErrCode.widthRange.bits.toNat = 3 ∧ ErrCode.palInvalid.bits.toNat = 4 ∧ ErrCode.palNoMatch.bits.toNat = 5 ∧
    ErrCode.cmdOverrun.bits.toNat = 6) ∧
  State.reset.readLoc .status = 0 ∧
  ∀ (s : State) (v : Word), HostWrites s .status v →
    ∃ t, step s = .next t ∧ t.busy = s.busy ∧ (t.done = if v.getLsbD 1 then false else s.done) ∧
      (t.err = if v.getLsbD 2 then false else s.err) ∧
      (t.errCode = if v.getLsbD 2 then .noError else s.errCode) ∧ t.cmd = s.cmd ∧ t.wSnap = s.wSnap ∧
      t.ieDone = s.ieDone ∧ t.ieErr = s.ieErr ∧ t.width = s.width ∧ SameGeometry s t ∧ SameMemories s t

/-- 10_state.md R26: CTRL, at 0x008, takes a write whether or not a command is pending. With bit 31 clear the write sets
the two enables and changes nothing else; with bit 31 set it is the soft reset, which leaves both at 0 whatever bits 1
and 0 are. CTRL reads the two enables and is 0 at reset. -/
def Obligations.CtrlSetsEnables : Prop :=
  (∀ s : State, s.target 0x008 4 = some .ctrl ∧ (s.readLoc .ctrl).toNat = s.ieDone.toNat + 2 * s.ieErr.toNat) ∧
  State.reset.readLoc .ctrl = 0 ∧
  (∀ (s : State) (v : Word), HostWrites s .ctrl v → v.getLsbD 31 = false →
    ∃ t, step s = .next t ∧ t.ieDone = v.getLsbD 0 ∧ t.ieErr = v.getLsbD 1 ∧
      (t.readLoc .ctrl).toNat = v.toNat % 4 ∧ t.cmd = s.cmd ∧ t.wSnap = s.wSnap ∧ t.width = s.width ∧
      SameStatus s t ∧ SameGeometry s t ∧ SameMemories s t) ∧
  ∀ (s : State) (v : Word), HostWrites s .ctrl v → v.getLsbD 31 = true →
    ∃ p r, step s = .next (s.nextTurn.softReset.respond p r) ∧ (s.nextTurn.softReset.respond p r).readLoc .ctrl = 0

/-- 10_state.md R27: WIDTH, at 0x00C, takes any 32-bit value whether or not a command is pending, and the write changes
nothing else, the snapshot of a pending command included. WIDTH reads back and is 0 at reset. -/
def Obligations.WidthHoldsAnyValue : Prop :=
  (∀ s : State, s.target 0x00C 4 = some .width ∧ s.readLoc .width = s.width) ∧
  State.reset.readLoc .width = 0 ∧
  ∀ (s : State) (v : Word), HostWrites s .width v →
    ∃ t, step s = .next t ∧ t.width = v ∧ t.readLoc .width = v ∧ t.cmd = s.cmd ∧ t.wSnap = s.wSnap ∧
      t.ieDone = s.ieDone ∧ t.ieErr = s.ieErr ∧ SameStatus s t ∧ SameGeometry s t ∧ SameMemories s t

/-- 10_state.md R31, R32: PARAM, at 0x01C, reads MAX_WIDTH; bit k of PALVALIDj, at 0x020 + 4·j, reads PV[32·j + k], all
0 at reset; a write to any of them, or to ROWDATA, ROWPAD or ROWSTRIDE, changes nothing, and to the last three is
answered without an error (R29). -/
def Obligations.ReadOnlyRegisters : Prop :=
  (∀ (s : State) (l : Loc) (v : Word),
    (l = .rowData ∨ l = .rowPad ∨ l = .rowStride ∨ l = .param ∨ ∃ j, l = .palValid j) → HostWrites s l v →
    ∃ t, step s = .next t ∧ SameBlock s t ∧
      (l = .rowData ∨ l = .rowPad ∨ l = .rowStride → lastResponse t = some .writeOk)) ∧
  (∀ s : State, s.target 0x01C 4 = some .param ∧ (s.readLoc .param).toNat = maxWidth ∧ 1 ≤ maxWidth ∧
    maxWidth ≤ 16384) ∧
  (∀ (s : State) (j : Nat), j < 8 → s.target (BitVec.ofNat 18 (0x20 + 4 * j)) 4 = some (.palValid j) ∧
    State.reset.readLoc (.palValid j) = 0) ∧
  ∀ (s : State) (j k : Nat), j < 8 → k < 32 → (s.readLoc (.palValid j)).getLsbD k = s.valid (32 * j + k)

/-- 20_memory.md R61, R62, R65, R66, R69, R70: exactly which accesses are answered with BusError, reads and writes alike:
another width, a misaligned offset, a reserved offset or one beyond a buffer's window, and any window while a command is
pending. Two parts are the model's own, DEDUCED: that the writes of CMD while BUSY = 1, of PARAM and of PALVALID, which have
no effect, are answered without an error (log entry 8), and the last clause, that an offset from 0x30000 up is answered
with BusError and changes nothing (log entry 7). -/
def Obligations.BusErrorsExactly : Prop :=
  (∀ (s : State) (off : Offset) (bytes : Nat) (v : Word), off.toNat < 0x30000 →
    ((s.busRead off bytes).isError = true ↔
      bytes ≠ 4 ∨ off.toNat % 4 ≠ 0 ∨ (0x40 ≤ off.toNat ∧ off.toNat < 0x400) ∨
        (0x800 ≤ off.toNat ∧ off.toNat < 0x10000) ∨
        (0x10000 + 4 * maxWidth ≤ off.toNat ∧ off.toNat < 0x20000) ∨ 0x20000 + 4 * maxWidth ≤ off.toNat ∨
        (s.busy = true ∧ 0x400 ≤ off.toNat)) ∧
    (s.busWrite off bytes v).2.isError = (s.busRead off bytes).isError) ∧
  ∀ (s : State) (off : Offset) (bytes : Nat) (v : Word), 0x30000 ≤ off.toNat →
    s.busRead off bytes = .readError 0 ∧ s.busWrite off bytes v = (s, .writeError)

/-- 20_memory.md R68: what each offset of the register block and of the windows names. 10_state.md R29: ROWDATA, ROWPAD and
ROWSTRIDE, at 0x010, 0x014 and 0x018, read as they stand in every state, and 0 at reset. -/
def Obligations.AddressMap : Prop :=
  (∀ s : State,
    s.target 0x000 4 = some .cmd ∧ s.target 0x004 4 = some .status ∧ s.target 0x008 4 = some .ctrl ∧
    s.target 0x00C 4 = some .width ∧ s.target 0x010 4 = some .rowData ∧ s.target 0x014 4 = some .rowPad ∧
    s.target 0x018 4 = some .rowStride ∧ s.target 0x01C 4 = some .param ∧
    (∀ j, j < 8 → s.target (BitVec.ofNat 18 (0x20 + 4 * j)) 4 = some (.palValid j)) ∧
    (s.busy = false →
      (∀ k, k < 256 → s.target (BitVec.ofNat 18 (0x400 + 4 * k)) 4 = some (.palette k)) ∧
      (∀ k, k < maxWidth → s.target (BitVec.ofNat 18 (0x10000 + 4 * k)) 4 = some (.rowWord k)) ∧
      ∀ i, i < maxWidth → s.target (BitVec.ofNat 18 (0x20000 + 4 * i)) 4 = some (.pixWord i))) ∧
  (∀ s : State, s.readLoc .rowData = s.rowData ∧ s.readLoc .rowPad = s.rowPad ∧ s.readLoc .rowStride = s.rowStride) ∧
  State.reset.readLoc .rowData = 0 ∧ State.reset.readLoc .rowPad = 0 ∧ State.reset.readLoc .rowStride = 0

/-- 20_memory.md R63: an access of the register space that raises BusError is answered with an error, a read with data 0,
and changes no state of the block, so no error is recorded and IRQ does not rise. -/
def Obligations.BusErrorChangesNothing : Prop :=
  (∀ (s : State) (off : Offset) (bytes : Nat), off.toNat < 0x30000 →
    HostMoves s (.read off bytes) → s.target off bytes = none →
    ∃ t, step s = .next t ∧ lastResponse t = some (.readError 0) ∧ SameBlock s t ∧ t.irq = s.irq) ∧
  ∀ (s : State) (off : Offset) (bytes : Nat) (v : Word), off.toNat < 0x30000 →
    HostMoves s (.write off bytes v) → s.target off bytes = none →
    ∃ t, step s = .next t ∧ lastResponse t = some .writeError ∧ SameBlock s t ∧ t.irq = s.irq

/-- 20_memory.md R60, R71: a read answers what the location holds and no read has a side effect; the host goes on to its
next operation. -/
def Obligations.ReadsHaveNoSideEffect : Prop :=
  ∀ (s : State) (off : Offset) (l : Loc), HostMoves s (.read off 4) → s.target off 4 = some l →
    ∃ t, step s = .next t ∧ lastResponse t = some (.readOk (s.readLoc l)) ∧ SameBlock s t ∧
      t.env.program = s.env.program.tail

/-- 30_encoding.md R110: POLL reads again until the masked result is the value, and has no side effect on the block. A
read that is answered with an error is compared by its data 0 (the model's choice, log entry 11). -/
def Obligations.PollRepeatsUntilMatch : Prop :=
  ∀ (s : State) (off : Offset) (mask v : Word), HostMoves s (.poll off mask v) →
    ∃ t, step s = .next t ∧ lastResponse t = some (s.busRead off 4) ∧ SameBlock s t ∧
      (t.env.program = if (s.busRead off 4).data &&& mask = v then s.env.program.tail else s.env.program)

/-- 20_memory.md R65: ROWBUF word k is at 0x10000 + 4·k for k < MAX_WIDTH, the rest of the window being no word, and is
four bytes, the lowest in bits 7 to 0. A write stores exactly those four bytes and the word reads back; a read gathers
them. -/
def Obligations.RowbufWindow : Prop :=
  (∀ (s : State) (k : Nat), s.busy = false → k < 0x4000 → s.target (BitVec.ofNat 18 (0x10000 + 4 * k)) 4 =
    if k < maxWidth then some (.rowWord k) else none) ∧
  (∀ (s : State) (k i b : Nat), i < 4 → b < 8 →
    (s.readLoc (.rowWord k)).getLsbD (8 * i + b) = (s.rowByte (4 * k + i)).getLsbD b) ∧
  ∀ (s : State) (k : Nat) (v : Word), HostWrites s (.rowWord k) v →
    ∃ t, step s = .next t ∧ t.readLoc (.rowWord k) = v ∧
      (∀ i, i < 4 → (t.rowByte (4 * k + i)).toNat = v.toNat / 2 ^ (8 * i) % 256) ∧
      (∀ j, (j < 4 * k ∨ 4 * k + 4 ≤ j) → t.rowByte j = s.rowByte j) ∧ t.cmd = s.cmd ∧ t.wSnap = s.wSnap ∧
      t.ieDone = s.ieDone ∧ t.ieErr = s.ieErr ∧ t.width = s.width ∧ SameStatus s t ∧ SameGeometry s t ∧
      SamePalette s t ∧ SamePixbuf s t

/-- 20_memory.md R66: PIXBUF word i is at 0x20000 + 4·i for i < MAX_WIDTH, the rest of the window being no word, and is
0x00RRGGBB. A write stores the three channels of exactly that entry and ignores
bits 31 to 24; the word reads back with those bits 0. -/
def Obligations.PixbufWindow : Prop :=
  (∀ (s : State) (i : Nat), s.busy = false → i < 0x4000 → s.target (BitVec.ofNat 18 (0x20000 + 4 * i)) 4 =
    if i < maxWidth then some (.pixWord i) else none) ∧
  (∀ (s : State) (i : Nat), (s.readLoc (.pixWord i)).toNat =
    (s.pixel i).b.toNat + 2 ^ 8 * (s.pixel i).g.toNat + 2 ^ 16 * (s.pixel i).r.toNat) ∧
  ∀ (s : State) (i : Nat) (v : Word), HostWrites s (.pixWord i) v →
    ∃ t, step s = .next t ∧ (t.readLoc (.pixWord i)).toNat = v.toNat % 2 ^ 24 ∧
      (t.pixel i).b.toNat = v.toNat % 256 ∧ (t.pixel i).g.toNat = v.toNat / 2 ^ 8 % 256 ∧
      (t.pixel i).r.toNat = v.toNat / 2 ^ 16 % 256 ∧ (∀ j, j ≠ i → t.pixel j = s.pixel j) ∧ t.cmd = s.cmd ∧
      t.wSnap = s.wSnap ∧ t.ieDone = s.ieDone ∧ t.ieErr = s.ieErr ∧ t.width = s.width ∧ SameStatus s t ∧
      SameGeometry s t ∧ SamePalette s t ∧ SameRowbuf s t

/-- 20_memory.md R67: PALETTE word k is at 0x400 + 4·k for k < 256, and is RSV, R, G, B from the high byte down. A write stores exactly that entry and makes it
valid; the word reads back, and a read does not depend on the valid flag. -/
def Obligations.PaletteWindow : Prop :=
  (∀ (s : State) (k : Nat), s.busy = false → k < 256 →
    s.target (BitVec.ofNat 18 (0x400 + 4 * k)) 4 = some (.palette k)) ∧
  (∀ (s : State) (k : Nat), (s.readLoc (.palette k)).toNat =
    (s.palEntry k).b.toNat + 2 ^ 8 * (s.palEntry k).g.toNat + 2 ^ 16 * (s.palEntry k).r.toNat +
      2 ^ 24 * (s.palEntry k).rsv.toNat) ∧
  ∀ (s : State) (k : Nat) (v : Word), HostWrites s (.palette k) v →
    ∃ t, step s = .next t ∧ t.readLoc (.palette k) = v ∧ t.valid k = true ∧
      (t.palEntry k).b.toNat = v.toNat % 256 ∧ (t.palEntry k).g.toNat = v.toNat / 2 ^ 8 % 256 ∧
      (t.palEntry k).r.toNat = v.toNat / 2 ^ 16 % 256 ∧ (t.palEntry k).rsv.toNat = v.toNat / 2 ^ 24 ∧
      (∀ j, j ≠ k → t.palEntry j = s.palEntry j ∧ t.valid j = s.valid j) ∧ t.cmd = s.cmd ∧ t.wSnap = s.wSnap ∧
      t.ieDone = s.ieDone ∧ t.ieErr = s.ieErr ∧ t.width = s.width ∧ SameStatus s t ∧ SameGeometry s t ∧
      SameRowbuf s t ∧ SamePixbuf s t

/-! ## Interrupt and arithmetic -/

/-- 60_exceptions.md R230: IRQ is high exactly when an enabled source is pending; a host write of 1 to a source's STATUS
bit clears that source; and IRQ is 0 after a reset of either kind. -/
def Obligations.IrqFollowsStatus : Prop :=
  (∀ s : State, s.irq = true ↔ (s.ieDone = true ∧ s.done = true) ∨ (s.ieErr = true ∧ s.err = true)) ∧
  (∀ (s t : State) (v : Word), HostWrites s .status v → step s = .next t →
    (v.getLsbD 1 = true → t.done = false) ∧ (v.getLsbD 2 = true → t.err = false) ∧
    (t.irq = true ↔ (s.ieDone = true ∧ s.done = true ∧ v.getLsbD 1 = false) ∨
      (s.ieErr = true ∧ s.err = true ∧ v.getLsbD 2 = false))) ∧
  State.reset.irq = false ∧ ∀ s t : State, Resets s → step s = .next t → t.irq = false

/-- 60_exceptions.md R230: IRQ rises only by an ENGINE step, by an overrun, or by a host write that enables a source. -/
def Obligations.IrqRisesOnlyByEvents : Prop :=
  ∀ s t : State, step s = .next t → s.irq = false → t.irq = true →
    EngineMoves s ∨ ((∃ v, HostWrites s .cmd v) ∧ s.busy = true) ∨ ∃ v, HostWrites s .ctrl v

/-- 40_unpack.md R133, R141: the row geometry of every row against the closed forms, and its padding against the source's
literal formulas; the stride is a multiple of 4, and none exceeds that of the widest 32-bit row. -/
def Obligations.RowGeometryClosedForms : Prop :=
  ∀ w : Nat,
    (rowDataLen .bc1 w = (w + 7) / 8 ∧ rowDataLen .bc4 w = (w + 1) / 2 ∧ rowDataLen .bc8 w = w ∧
      rowDataLen .bc24 w = 3 * w ∧ rowDataLen .bc32 w = 4 * w) ∧
    (rowPadLen .bc1 w = 3 * ((w + 7) / 8) % 4 ∧ rowPadLen .bc4 w = 3 * ((w + 1) / 2) % 4 ∧
      rowPadLen .bc8 w = 3 * w % 4 ∧ rowPadLen .bc24 w = w % 4 ∧ rowPadLen .bc32 w = 0) ∧
    (rowPadLen .bc1 w = (4 - rowDataLen .bc1 w % 4) % 4 ∧ rowPadLen .bc4 w = (4 - rowDataLen .bc4 w % 4) % 4 ∧
      rowPadLen .bc8 w = (4 - w % 4) % 4) ∧
    (rowStrideLen .bc1 w = 4 * ((rowDataLen .bc1 w + 3) / 4) ∧ rowStrideLen .bc4 w = 4 * ((rowDataLen .bc4 w + 3) / 4) ∧
      rowStrideLen .bc8 w = 4 * ((w + 3) / 4) ∧ rowStrideLen .bc24 w = 3 * w + w % 4 ∧ rowStrideLen .bc32 w = 4 * w) ∧
    ∀ bc : BitCount, rowStrideLen bc w % 4 = 0 ∧ rowDataLen bc w ≤ rowStrideLen bc w ∧
      rowStrideLen bc w < rowDataLen bc w + 4 ∧ rowStrideLen bc w ≤ 4 * w ∧
      (w ≤ maxWidth → rowStrideLen bc w ≤ rowStrideLen .bc32 maxWidth)
end

