-- ==== Sys2Proof/Laws/Operands.lean ====
section
/-! SUPPORT. What each operand function computes: the bounds of MAX_WIDTH, the row geometry, the pixel-by-pixel run,
the two palette lookups, the bits of packed bytes, and the ramp. -/

namespace Sys2Proof.Machine

/-! ### MAX_WIDTH -/

theorem maxWidth_pos : 1 ≤ maxWidth := by unfold maxWidth; omega

theorem maxWidth_le : maxWidth ≤ 16384 := by unfold maxWidth; omega

/-! ### Row geometry -/

theorem rowDataLen_eq (bc : BitCount) (w : Nat) : rowDataLen bc w = (w * bc.toNat + 7) / 8 := rfl

theorem rowPadLen_lt (bc : BitCount) (w : Nat) : rowPadLen bc w < 4 := Nat.mod_lt _ (by decide)

theorem rowStrideLen_eq (bc : BitCount) (w : Nat) : rowStrideLen bc w = rowDataLen bc w + rowPadLen bc w := rfl

theorem rowStrideLen_mod_four (bc : BitCount) (w : Nat) : rowStrideLen bc w % 4 = 0 := by
  rw [rowStrideLen_eq]; unfold rowPadLen; omega

theorem rowDataLen_le (bc : BitCount) (w : Nat) : rowDataLen bc w ≤ 4 * w := by
  rw [rowDataLen_eq]; cases bc <;> simp only [BitCount.toNat] <;> omega

/-- The stride is at most that of the 32-bit row (40_unpack.md R132). -/
theorem rowStrideLen_le (bc : BitCount) (w : Nat) : rowStrideLen bc w ≤ 4 * w := by
  have := rowDataLen_le bc w
  rw [rowStrideLen_eq]; unfold rowPadLen; omega

/-! ### Pixel by pixel -/

section ForPixels
variable {α : Type} {f g : Nat → Except ErrCode α} {n : Nat}

theorem forPixels_succ (f : Nat → Except ErrCode α) (n : Nat) :
    forPixels f (n + 1) =
      match forPixels f n with
      | .error e => .error e
      | .ok vs =>
        match f n with
        | .error e => .error e
        | .ok v => .ok (vs ++ [v]) := rfl

/-- A run with no error has one result a pixel, each the pixel's own. -/
theorem forPixels_ok {vs : List α} (h : forPixels f n = .ok vs) :
    vs.length = n ∧ ∀ x, x < n → ∃ v, vs[x]? = some v ∧ f x = .ok v := by
  induction n generalizing vs with
  | zero => cases h; exact ⟨rfl, fun x hx => absurd hx (Nat.not_lt_zero x)⟩
  | succ n ih =>
    rw [forPixels_succ] at h
    split at h
    · cases h
    · next us hus =>
      split at h
      · cases h
      · next v hv =>
        cases h
        obtain ⟨hlen, hall⟩ := ih hus
        refine ⟨by simp [hlen], fun x hx => ?_⟩
        by_cases hxn : x = n
        · subst hxn; exact ⟨v, by simp [← hlen], hv⟩
        · obtain ⟨u, hu, hfu⟩ := hall x (by omega)
          exact ⟨u, by rw [List.getElem?_append_left (by omega)]; exact hu, hfu⟩

/-- A run in which every pixel succeeds succeeds. -/
theorem forPixels_of_ok {v : Nat → α} (h : ∀ x, x < n → f x = .ok (v x)) :
    forPixels f n = .ok ((List.range n).map v) := by
  induction n with
  | zero => rfl
  | succ n ih =>
    rw [forPixels_succ, ih fun x hx => h x (by omega), h n (by omega), List.range_succ, List.map_append]
    rfl

/-- A run that ends in an error ends in that of the lowest pixel that fails. -/
theorem forPixels_error {e : ErrCode} (h : forPixels f n = .error e) :
    ∃ x, x < n ∧ f x = .error e ∧ ∀ y, y < x → ∃ v, f y = .ok v := by
  induction n with
  | zero => cases h
  | succ n ih =>
    rw [forPixels_succ] at h
    split at h
    · next e' he =>
      cases h
      obtain ⟨x, hx, hfx, hlow⟩ := ih he
      exact ⟨x, by omega, hfx, hlow⟩
    · next us hus =>
      split at h
      · next e' he =>
        cases h
        exact ⟨n, by omega, he, fun y hy => let ⟨v, _, hv⟩ := (forPixels_ok hus).2 y hy; ⟨v, hv⟩⟩
      · cases h

/-- A run in which some pixel fails, and every failure is `e`, ends in `e`. -/
theorem forPixels_of_error {e : ErrCode} (hx : ∃ x e', x < n ∧ f x = .error e')
    (he : ∀ x e', x < n → f x = .error e' → e' = e) : forPixels f n = .error e := by
  cases hr : forPixels f n with
  | error e' => obtain ⟨x, hxn, hfx, _⟩ := forPixels_error hr; rw [he x e' hxn hfx]
  | ok vs =>
    obtain ⟨x, e', hxn, hfx⟩ := hx
    obtain ⟨v, _, hv⟩ := (forPixels_ok hr).2 x hxn
    rw [hfx] at hv; cases hv

theorem forPixels_congr (h : ∀ x, x < n → f x = g x) : forPixels f n = forPixels g n := by
  induction n with
  | zero => rfl
  | succ n ih => rw [forPixels_succ, forPixels_succ, ih fun x hx => h x (by omega), h n (by omega)]

end ForPixels

/-! ### The palette lookups -/

theorem lookupUnpack_valid {s : State} {k : Byte} (h : s.valid k.toNat = true) :
    lookupUnpack s k = .ok (s.palEntry k.toNat).colour := by simp [lookupUnpack, h]

theorem lookupUnpack_invalid {s : State} {k : Byte} (h : s.valid k.toNat = false) :
    lookupUnpack s k = .error .palInvalid := by simp [lookupUnpack, h]

theorem lookupUnpack_error {s : State} {k : Byte} {e : ErrCode} (h : lookupUnpack s k = .error e) :
    e = .palInvalid ∧ s.valid k.toNat = false := by
  unfold lookupUnpack at h
  split at h
  · cases h
  · next hv => cases h; exact ⟨rfl, by simpa using hv⟩

theorem lookupUnpack_ok {s : State} {k : Byte} {p : Pixel} (h : lookupUnpack s k = .ok p) :
    s.valid k.toNat = true ∧ p = (s.palEntry k.toNat).colour := by
  unfold lookupUnpack at h
  split at h
  · next hv => cases h; exact ⟨hv, rfl⟩
  · cases h

theorem two_pow_le_of_palette {bc : BitCount} (h : bc.toNat ≤ 8) : 2 ^ bc.toNat ≤ 256 := by
  have : 2 ^ bc.toNat ≤ 2 ^ 8 := Nat.pow_le_pow_right (by decide) h
  simpa using this

/-- A successful reverse lookup gives the lowest valid index below 2^BC with the pixel's colour (41_pack.md R160). -/
theorem lookupPack_ok {s : State} {bc : BitCount} {p : Pixel} {b : Byte} (hbc : bc.toNat ≤ 8)
    (h : lookupPack s bc p = .ok b) :
    b.toNat < 2 ^ bc.toNat ∧ s.valid b.toNat = true ∧ (s.palEntry b.toNat).colour = p ∧
      ∀ m, m < b.toNat → s.valid m = true → (s.palEntry m).colour ≠ p := by
  unfold lookupPack at h
  split at h
  · next k hk =>
    cases h
    obtain ⟨hp, as, bs, hsplit, has⟩ := List.find?_eq_some_iff_append.mp hk
    have hkm : k ∈ List.range (2 ^ bc.toNat) := List.mem_of_find?_eq_some hk
    have hkn : k < 2 ^ bc.toNat := List.mem_range.mp hkm
    have h256 := two_pow_le_of_palette hbc
    have hb : (BitVec.ofNat 8 k).toNat = k := by
      rw [BitVec.toNat_ofNat]; exact Nat.mod_eq_of_lt (by omega)
    rw [hb]
    simp only [Bool.and_eq_true, decide_eq_true_eq] at hp
    refine ⟨hkn, hp.1, hp.2, fun m hm hv hc => ?_⟩
    have hlen : as.length = k := by
      have := congrArg (fun l => l[as.length]?) hsplit
      simp only [List.getElem?_append_right (Nat.le_refl _), Nat.sub_self, List.getElem?_cons_zero] at this
      rw [List.getElem?_eq_some_iff] at this
      obtain ⟨hlt, hget⟩ := this
      simpa using hget
    have hmem : m ∈ as := by
      have h1 : (List.range (2 ^ bc.toNat))[m]? = some m := by
        rw [List.getElem?_range (by omega)]
      rw [hsplit, List.getElem?_append_left (by omega)] at h1
      exact List.mem_of_getElem? h1
    have := has m hmem
    simp [hv, hc] at this
  · cases h

theorem lookupPack_error {s : State} {bc : BitCount} {p : Pixel} {e : ErrCode} (h : lookupPack s bc p = .error e) :
    e = .palNoMatch ∧ ∀ k, k < 2 ^ bc.toNat → s.valid k = true → (s.palEntry k).colour ≠ p := by
  unfold lookupPack at h
  split at h
  · cases h
  · next hn =>
    cases h
    refine ⟨rfl, fun k hk hv hc => ?_⟩
    have := List.find?_eq_none.mp hn k (List.mem_range.mpr hk)
    simp [hv, hc] at this

/-- A colour that some valid entry below 2^BC holds has an index. -/
theorem lookupPack_of_match {s : State} {bc : BitCount} {p : Pixel}
    (h : ∃ k, k < 2 ^ bc.toNat ∧ s.valid k = true ∧ (s.palEntry k).colour = p) : ∃ b, lookupPack s bc p = .ok b := by
  cases hr : lookupPack s bc p with
  | ok b => exact ⟨b, rfl⟩
  | error e => obtain ⟨k, hk, hv, hc⟩ := h; exact absurd hc ((lookupPack_error hr).2 k hk hv)

theorem lookupPack_of_no_match {s : State} {bc : BitCount} {p : Pixel} (hbc : bc.toNat ≤ 8)
    (h : ∀ k, k < 2 ^ bc.toNat → s.valid k = true → (s.palEntry k).colour ≠ p) :
    lookupPack s bc p = .error .palNoMatch := by
  cases hr : lookupPack s bc p with
  | error e => rw [(lookupPack_error hr).1]
  | ok b => obtain ⟨hk, hv, hc, _⟩ := lookupPack_ok hbc hr; exact absurd hc (h _ hk hv)

/-- The reverse lookup sees only the valid flags and the valid entries' colours. -/
theorem lookupPack_congr {s s' : State} {bc : BitCount} {p p' : Pixel} (hp : p' = p) (hv : s'.pv = s.pv)
    (hc : ∀ k, s.valid k = true → (s'.palEntry k).colour = (s.palEntry k).colour) :
    lookupPack s' bc p' = lookupPack s bc p := by
  subst hp
  have hf : (fun k => s'.valid k && decide ((s'.palEntry k).colour = p')) =
      fun k => s.valid k && decide ((s.palEntry k).colour = p') := by
    funext k
    have hvk : s'.valid k = s.valid k := by unfold State.valid; rw [hv]
    cases h : s.valid k with
    | false => simp [hvk, h]
    | true => simp [hvk, h, hc k h]
  unfold lookupPack; rw [hf]

/-- The lookup sees only the valid flags and the valid entries' colours. -/
theorem lookupUnpack_congr {s s' : State} {k k' : Byte} (hk : k' = k) (hv : s'.pv = s.pv)
    (hc : ∀ m, s.valid m = true → (s'.palEntry m).colour = (s.palEntry m).colour) :
    lookupUnpack s' k' = lookupUnpack s k := by
  subst hk
  have hvk : s'.valid k'.toNat = s.valid k'.toNat := by unfold State.valid; rw [hv]
  cases h : s.valid k'.toNat with
  | true => rw [lookupUnpack_valid (hvk.trans h), lookupUnpack_valid h, hc _ h]
  | false => rw [lookupUnpack_invalid (hvk.trans h), lookupUnpack_invalid h]

/-! ### Indices in bytes -/

/-- The 1-bit index is the bit 7 − (x mod 8) of its byte. -/
theorem index1_toNat (s : State) (x : Nat) :
    (index1 s x).toNat = if (s.rowByte (x / 8)).getLsbD (7 - x % 8) then 1 else 0 := by
  unfold index1
  generalize s.rowByte (x / 8) = b
  have h : ∀ (n : Fin 8) (v : Fin 256),
      ((BitVec.ofFin (w := 8) v >>> n.val) &&& 0x01).toNat = if (BitVec.ofFin (w := 8) v).getLsbD n.val then 1 else 0 := by
    decide +kernel
  exact h ⟨7 - x % 8, by omega⟩ b.toFin

theorem index4_toNat (s : State) (x : Nat) :
    (index4 s x).toNat =
      if x % 2 = 0 then (s.rowByte (x / 2)).toNat / 16 else (s.rowByte (x / 2)).toNat % 16 := by
  unfold index4
  generalize s.rowByte (x / 2) = b
  have h1 : ∀ v : Fin 256, ((BitVec.ofFin (w := 8) v &&& 0xF0) >>> 4).toNat = v.val / 16 := by decide +kernel
  have h2 : ∀ v : Fin 256, (BitVec.ofFin (w := 8) v &&& 0x0F).toNat = v.val % 16 := by decide +kernel
  split
  · exact h1 b.toFin
  · exact h2 b.toFin

theorem index8_toNat (s : State) (x : Nat) : (index8 s x).toNat = (s.rowByte x).toNat := rfl

/-! ### Packed bytes -/

theorem idxAt_of_getElem? {idx : List Byte} {x : Nat} {v : Byte} (h : idx[x]? = some v) : idxAt idx x = v := by
  simp [idxAt, h]

/-- Bit 7 − b of a packed 1-bit byte is pixel 8·j + b's index if that pixel is in the row, and 0 beyond it (41_pack.md
R161 (d), R163). -/
theorem packByte1_bit (w : Nat) (idx : List Byte) (j b : Nat) (hb : b < 8)
    (hidx : ∀ x, x < w → (idxAt idx x).toNat < 2) :
    (packByte1 w idx j).getLsbD (7 - b) = (decide (8 * j + b < w) && (idxAt idx (8 * j + b)).getLsbD 0) := by
  have hbit : ∀ x i, x < w → 1 ≤ i → (idxAt idx x).getLsbD i = false := fun x i hx hi => by
    rw [BitVec.getLsbD]
    exact Nat.testBit_lt_two_pow (Nat.lt_of_lt_of_le (hidx x hx) (Nat.pow_le_pow_right (n := 2) (by decide) hi))
  have hterm : ∀ c, c < 8 → ∀ acc : Byte,
      (if 8 * j + c < w then acc ||| (idxAt idx (8 * j + c) <<< (7 - c)) else acc).getLsbD (7 - b) =
        (acc.getLsbD (7 - b) || (decide (c = b) && (decide (8 * j + b < w) && (idxAt idx (8 * j + b)).getLsbD 0))) := by
    intro c hc acc
    by_cases hcw : 8 * j + c < w
    · rw [if_pos hcw, BitVec.getLsbD_or, BitVec.getLsbD_shiftLeft]
      by_cases hcb : c = b
      · subst hcb
        simp [hcw, show 7 - c < 8 by omega]
      · by_cases hlt : c < b
        · simp [hcb, show 7 - b < 7 - c by omega]
        · rw [hbit _ _ hcw (by omega)]
          simp [hcb]
    · rw [if_neg hcw]
      by_cases hcb : c = b
      · subst hcb; simp [hcw]
      · simp [hcb]
  have hr : List.range 8 = [0, 1, 2, 3, 4, 5, 6, 7] := by decide
  unfold packByte1
  rw [hr]
  simp only [List.foldl_cons, List.foldl_nil]
  rw [hterm 7 (by decide), hterm 6 (by decide), hterm 5 (by decide), hterm 4 (by decide), hterm 3 (by decide),
    hterm 2 (by decide), hterm 1 (by decide), hterm 0 (by decide)]
  interval_cases b <;> simp

/-- The halves of a packed 4-bit byte (41_pack.md R164). -/
theorem packByte4_halves (w : Nat) (idx : List Byte) (j : Nat) (h0 : (idxAt idx (2 * j)).toNat < 16)
    (h1 : 2 * j + 1 < w → (idxAt idx (2 * j + 1)).toNat < 16) :
    (packByte4 w idx j).toNat / 16 = (idxAt idx (2 * j)).toNat ∧
      (packByte4 w idx j).toNat % 16 = if 2 * j + 1 < w then (idxAt idx (2 * j + 1)).toNat else 0 := by
  have key : ∀ a b : Fin 16,
      ((BitVec.ofNat 8 a.val <<< 4) ||| BitVec.ofNat 8 b.val).toNat / 16 = a.val ∧
        ((BitVec.ofNat 8 a.val <<< 4) ||| BitVec.ofNat 8 b.val).toNat % 16 = b.val := by decide +kernel
  have hof : ∀ v : Byte, BitVec.ofNat 8 v.toNat = v := fun v => BitVec.ofNat_toNat 8 v ▸ by simp
  unfold packByte4
  by_cases hw : 2 * j + 1 < w
  · have := key ⟨_, h0⟩ ⟨_, h1 hw⟩
    simp only [hof] at this
    simpa [hw] using this
  · have := key ⟨_, h0⟩ ⟨0, by decide⟩
    simp only [hof] at this
    simpa [hw] using this

/-! ### The ramp -/

/-- The closed form of the ramp (42_control.md R196). -/
theorem rampValue_closed {step : Nat} (hs : 1 ≤ step) (k : Nat) :
    rampValue step k = if k = 0 then 0 else k * step - 1 := by
  have h : ∀ k, rampValue step (k + 1) = (k + 1) * step - 1 := by
    intro k
    induction k with
    | zero => simp [rampValue]
    | succ k ih =>
      show rampValue step (k + 1) + step = _
      rw [ih, Nat.succ_mul (k + 1) step]
      have : step ≤ (k + 1) * step := Nat.le_mul_of_pos_left step (Nat.succ_pos k)
      omega
  cases k with
  | zero => rfl
  | succ k => simpa using h k

/-- Every ramp value fits in a byte (42_control.md R196). -/
theorem rampValue_lt {bc : BitCount} (hbc : bc.toNat ≤ 8) {k : Nat} (hk : k < 2 ^ bc.toNat) :
    rampValue (2 ^ (8 - bc.toNat)) k < 256 := by
  rw [rampValue_closed (Nat.one_le_two_pow)]
  split
  · decide
  · have hle : k * 2 ^ (8 - bc.toNat) ≤ 2 ^ bc.toNat * 2 ^ (8 - bc.toNat) :=
      Nat.mul_le_mul_right _ (Nat.le_of_lt hk)
    rw [← Nat.pow_add, Nat.add_sub_cancel' hbc] at hle
    omega

end Sys2Proof.Machine
end

