-- ==== Sys2Proof/Laws/Bus.lean ====
section
/-! SUPPORT. The laws of the bus slave: words as four bytes, which locations an access can reach, and host addresses
as offsets. -/

namespace Sys2Proof.Machine

/-- Four bytes as a word, the last one in bits 7 to 0. -/
theorem append_bytes_toNat (b3 b2 b1 b0 : Byte) :
    (b3 ++ b2 ++ b1 ++ b0).toNat = b0.toNat + 2 ^ 8 * b1.toNat + 2 ^ 16 * b2.toNat + 2 ^ 24 * b3.toNat := by
  have := b0.isLt
  have := b1.isLt
  have := b2.isLt
  simp only [BitVec.toNat_append]
  rw [← Nat.shiftLeft_add_eq_or_of_lt b0.isLt, ← Nat.shiftLeft_add_eq_or_of_lt b1.isLt,
    ← Nat.shiftLeft_add_eq_or_of_lt b2.isLt]
  simp only [Nat.shiftLeft_eq]
  omega

/-- A word is the append of its byte lanes. -/
theorem append_byteLanes (v : Word) :
    v.extractLsb' 24 8 ++ v.extractLsb' 16 8 ++ v.extractLsb' 8 8 ++ v.extractLsb' 0 8 = v := by
  apply BitVec.eq_of_toNat_eq
  refine (append_bytes_toNat _ _ _ _).trans ?_
  have := v.isLt
  simp only [BitVec.extractLsb'_toNat, Nat.shiftRight_eq_div_pow]
  omega

/-- The locations whose number is inside the block. -/
def Loc.InRange : Loc → Prop
  | .palValid j => j < 8
  | .palette k => k < 256
  | .rowWord k => k < maxWidth
  | .pixWord i => i < maxWidth
  | .cmd | .status | .ctrl | .width | .rowData | .rowPad | .rowStride | .param => True

theorem registerAt_inRange {n : Nat} {l : Loc} (h : registerAt n = some l) : l.InRange ∧ l.isWindow = false := by
  unfold registerAt at h
  split at h
  case h_9 k =>
    split at h
    · next hk => cases h; exact ⟨hk, rfl⟩
    · cases h
  all_goals cases h; exact ⟨trivial, rfl⟩

/-- The address map names only locations that exist. -/
theorem locationAt_inRange {o : Nat} {l : Loc} (h : locationAt o = some l) : l.InRange := by
  unfold locationAt at h
  split at h
  · exact (registerAt_inRange h).1
  · split at h
    · cases h
      show (o - 0x400) / 4 < 256
      omega
    · split at h
      · cases h
      · split at h
        · split at h
          · next hk => cases h; exact hk
          · cases h
        · split at h
          · split at h
            · next hk => cases h; exact hk
            · cases h
          · cases h

/-- What an access reaches: a location of the map, by an aligned word access, through a window only while idle. -/
theorem target_eq_some {s : State} {off : Offset} {bytes : Nat} {l : Loc} :
    s.target off bytes = some l ↔
      bytes = 4 ∧ off.toNat % 4 = 0 ∧ locationAt off.toNat = some l ∧ (s.busy = true → l.isWindow = false) := by
  unfold State.target
  by_cases hf : bytes ≠ 4 ∨ off.toNat % 4 ≠ 0
  · rw [if_pos hf]
    constructor
    · intro h; cases h
    · rintro ⟨h1, h2, _⟩; omega
  · rw [if_neg hf]
    cases hl : locationAt off.toNat with
    | none => simp
    | some m =>
      have h4 : bytes = 4 := by omega
      have ha : off.toNat % 4 = 0 := by omega
      by_cases hc : (s.busy && m.isWindow) = true
      · simp only [hc, if_true]
        simp only [Bool.and_eq_true] at hc
        constructor
        · intro h; cases h
        · rintro ⟨_, _, h, hw⟩
          cases h
          exact absurd (hw hc.1) (by rw [hc.2]; decide)
      · simp only [hc]
        constructor
        · intro h
          cases h
          exact ⟨h4, ha, rfl, fun hb => by simpa [hb] using hc⟩
        · exact fun h => h.2.2.1

theorem target_inRange {s : State} {off : Offset} {bytes : Nat} {l : Loc} (h : s.target off bytes = some l) :
    l.InRange := locationAt_inRange (target_eq_some.mp h).2.2.1

/-- The host's address of an offset inside the register space names that offset. -/
theorem offsetOfAddress_hostAddress (off : Offset) (h : off.toNat < 0x30000) :
    offsetOfAddress (hostAddress off) = some off := by
  unfold offsetOfAddress hostAddress
  rw [if_pos (by omega), Nat.add_sub_cancel_left]
  simp

end Sys2Proof.Machine
end

