-- ==== Sys2Proof/Laws/Decode.lean ====
section
/-! SUPPORT. The laws of the decoder: the fields of a word by arithmetic, and the decoder as one table on them. -/

namespace Sys2Proof

/-- The fields of a command word by division. -/
theorem fieldsOf_toNat (w : Word) :
    (fieldsOf w).op.toNat = w.toNat % 16 ∧ (fieldsOf w).rsv0.toNat = w.toNat / 16 % 16 ∧
      (fieldsOf w).bc.toNat = w.toNat / 256 % 64 ∧ (fieldsOf w).rsv1.toNat = w.toNat / 16384 := by
  have := w.isLt
  simp [fieldsOf, Nat.shiftRight_eq_div_pow]
  omega

/-- The decoder on a word with no reserved bit, as a table on OP and BC. -/
def decodeTable (op bc : Nat) : Decoded :=
  match op, bc with
  | 0, 0 => .command .nop
  | 1, 1 => .command .unpack1
  | 1, 4 => .command .unpack4
  | 1, 8 => .command .unpack8
  | 1, 24 => .command .unpack24
  | 1, 32 => .command .unpack32
  | 2, 1 => .command .pack1
  | 2, 4 => .command .pack4
  | 2, 8 => .command .pack8
  | 2, 24 => .command .pack24
  | 2, 32 => .command .pack32
  | 3, 1 => .command .size1
  | 3, 4 => .command .size4
  | 3, 8 => .command .size8
  | 3, 24 => .command .size24
  | 3, 32 => .command .size32
  | 4, 1 => .command .genramp1
  | 4, 4 => .command .genramp4
  | 4, 8 => .command .genramp8
  | 5, 0 => .command .palclr
  | 1, _ | 2, _ | 3, _ | 4, _ => .illegal .unsupported
  | _, _ => .illegal .badOp

/-- Decoding is the reserved-bit check and then the table. -/
theorem decode_eq_table (w : Word) :
    decode w =
      if w.toNat / 16384 ≠ 0 ∨ w.toNat / 16 % 16 ≠ 0 then .illegal .badOp
      else decodeTable (w.toNat % 16) (w.toNat / 256 % 64) := by
  have hz : ∀ {n} (v : BitVec n), v ≠ 0 ↔ v.toNat ≠ 0 := fun v => by simp [BitVec.toNat_eq]
  have htab : ∀ (op : Fin 16) (bc : Fin 64),
      decodeFields { rsv1 := 0, bc := BitVec.ofFin bc, rsv0 := 0, op := BitVec.ofFin op } = decodeTable op bc := by
    decide +kernel
  obtain ⟨h1, h2, h3, h4⟩ := fieldsOf_toNat w
  unfold decode
  rw [← h1, ← h2, ← h3, ← h4]
  generalize fieldsOf w = f
  by_cases h : f.rsv1.toNat ≠ 0 ∨ f.rsv0.toNat ≠ 0
  · rw [if_pos h]
    unfold decodeFields
    rw [if_pos (by simpa only [hz] using h)]
  · rw [if_neg h]
    obtain ⟨r1, bc, r0, op⟩ := f
    have hr1 : r1 = 0 := by apply BitVec.eq_of_toNat_eq; simp at h; simpa using h.1
    have hr0 : r0 = 0 := by apply BitVec.eq_of_toNat_eq; simp at h; simpa using h.2
    subst hr1 hr0
    exact htab op.toFin bc.toFin

end Sys2Proof
end

