-- ==== Sys2Proof/Laws/Memory.lean ====
section
/-! SUPPORT. The laws of a local memory: read after write, and the canonical form. -/

namespace Sys2Proof.Machine

variable {α : Type}

@[simp] theorem Memory.read_nil (a : Nat) : Memory.read ([] : Memory α) a = none := rfl

theorem Memory.read_cons (b : Nat) (v : α) (m : Memory α) (a : Nat) :
    Memory.read ((b, v) :: m) a = if b = a then some v else Memory.read m a := rfl

@[simp] theorem Memory.writeSeq_nil (m : Memory α) (a : Nat) : Memory.writeSeq m a [] = m := rfl

theorem Memory.writeSeq_cons (m : Memory α) (a : Nat) (v : α) (vs : List α) :
    Memory.writeSeq m a (v :: vs) = Memory.writeSeq (Memory.write m a v) (a + 1) vs := rfl

/-- A read after a write: the written value at its location, and everywhere else what was there. -/
theorem Memory.read_write (m : Memory α) (a b : Nat) (v : α) :
    Memory.read (Memory.write m a v) b = if a = b then some v else Memory.read m b := by
  induction m with
  | nil => rfl
  | cons c m ih =>
    obtain ⟨k, w⟩ := c
    simp only [Memory.write]
    split
    · simp only [Memory.read_cons]
    · split
      · next h => subst h; simp only [Memory.read_cons]; split <;> rfl
      · simp only [Memory.read_cons, ih]
        split
        · next h => rw [if_neg (by omega)]
        · rfl

/-- A read after writing a run of values. -/
theorem Memory.read_writeSeq (m : Memory α) (a : Nat) (vs : List α) (b : Nat) :
    Memory.read (Memory.writeSeq m a vs) b =
      if a ≤ b ∧ b < a + vs.length then vs[b - a]? else Memory.read m b := by
  induction vs generalizing m a with
  | nil => simp
  | cons v vs ih =>
    rw [Memory.writeSeq_cons, ih, Memory.read_write, List.length_cons]
    by_cases hab : a = b
    · subst hab
      rw [if_neg (by omega), if_pos rfl, if_pos (by omega)]
      simp
    · by_cases hin : a + 1 ≤ b ∧ b < a + 1 + vs.length
      · rw [if_pos hin, if_pos (by omega)]
        obtain ⟨c, rfl⟩ : ∃ c, b = a + 1 + c := ⟨b - (a + 1), by omega⟩
        have h1 : a + 1 + c - (a + 1) = c := by omega
        have h2 : a + 1 + c - a = c + 1 := by omega
        rw [h1, h2, List.getElem?_cons_succ]
      · rw [if_neg hin, if_neg hab, if_neg (by omega)]

/-- A write adds at most its own location to the listed ones. -/
theorem Memory.mem_keys_write (m : Memory α) (a : Nat) (v : α) (k : Nat) :
    k ∈ (Memory.write m a v).map Prod.fst ↔ k = a ∨ k ∈ m.map Prod.fst := by
  induction m with
  | nil => simp [Memory.write]
  | cons c m ih =>
    obtain ⟨b, w⟩ := c
    simp only [Memory.write]
    split
    · simp
    · split
      · next h => subst h; simp
      · simp only [List.map_cons, List.mem_cons, ih]; tauto

/-- A write keeps the canonical form. -/
theorem Memory.wf_write (m : Memory α) (a : Nat) (v : α) (h : Memory.wf m) : Memory.wf (Memory.write m a v) := by
  induction m with
  | nil => simp [Memory.write, Memory.wf]
  | cons c m ih =>
    obtain ⟨b, w⟩ := c
    have hm : Memory.wf m := (List.pairwise_cons.mp h).2
    have hb : ∀ k ∈ m.map Prod.fst, b < k := (List.pairwise_cons.mp h).1
    simp only [Memory.write]
    split
    · next hab =>
      refine List.pairwise_cons.mpr ⟨fun k hk => ?_, h⟩
      rcases List.mem_cons.mp hk with rfl | hk
      · exact hab
      · exact hab.trans (hb k hk)
    · split
      · next hab => subst hab; exact h
      · refine List.pairwise_cons.mpr ⟨fun k hk => ?_, ih hm⟩
        rcases (Memory.mem_keys_write m a v k).mp hk with rfl | hk
        · show b < k
          omega
        · exact hb k hk

/-- Writing a run of values keeps the canonical form. -/
theorem Memory.wf_writeSeq (m : Memory α) (a : Nat) (vs : List α) (h : Memory.wf m) :
    Memory.wf (Memory.writeSeq m a vs) := by
  induction vs generalizing m a with
  | nil => exact h
  | cons v vs ih => exact ih _ _ (Memory.wf_write m a v h)

theorem Memory.wf_nil : Memory.wf ([] : Memory α) := List.Pairwise.nil

/-- A location below every listed one has not been written. -/
theorem Memory.read_eq_none_of_lt (m : Memory α) (a : Nat) (h : ∀ k ∈ m.map Prod.fst, a < k) :
    Memory.read m a = none := by
  induction m with
  | nil => rfl
  | cons c m ih =>
    obtain ⟨b, w⟩ := c
    have hb : a < b := h b (by simp)
    rw [Memory.read_cons, if_neg (by omega)]
    exact ih fun k hk => h k (by simp at hk ⊢; exact Or.inr hk)

/-- The form is canonical: memories with the same contents are the same list. -/
theorem Memory.ext_of_wf (m n : Memory α) (hm : Memory.wf m) (hn : Memory.wf n)
    (h : ∀ a, Memory.read m a = Memory.read n a) : m = n := by
  induction m generalizing n with
  | nil =>
    cases n with
    | nil => rfl
    | cons c n => obtain ⟨b, w⟩ := c; have := h b; simp [Memory.read_cons] at this
  | cons c m ih =>
    obtain ⟨a, v⟩ := c
    cases n with
    | nil => have := h a; simp [Memory.read_cons] at this
    | cons d n =>
      obtain ⟨b, w⟩ := d
      have ha := (List.pairwise_cons.mp hm).1
      have hb := (List.pairwise_cons.mp hn).1
      have hab : a = b := by
        rcases Nat.lt_trichotomy a b with hlt | heq | hgt
        · have h1 := h a
          rw [Memory.read_cons, if_pos rfl, Memory.read_cons, if_neg (by omega),
            Memory.read_eq_none_of_lt n a fun k hk => hlt.trans (hb k hk)] at h1
          cases h1
        · exact heq
        · have h1 := h b
          rw [Memory.read_cons, if_neg (by omega), Memory.read_cons, if_pos rfl,
            Memory.read_eq_none_of_lt m b fun k hk => hgt.trans (ha k hk)] at h1
          cases h1
      subst hab
      have hv : v = w := by have := h a; simpa [Memory.read_cons] using this
      subst hv
      refine congrArg _ (ih n (List.pairwise_cons.mp hm).2 (List.pairwise_cons.mp hn).2 fun k => ?_)
      by_cases hk : a = k
      · subst hk
        rw [Memory.read_eq_none_of_lt m a ha, Memory.read_eq_none_of_lt n a hb]
      · have := h k
        rwa [Memory.read_cons, if_neg hk, Memory.read_cons, if_neg hk] at this

end Sys2Proof.Machine
end

