-- ==== Sys2Proof/Laws/State.lean ====
section
/-! SUPPORT. What each update of the state does to each field, one lemma a field, all by `rfl`; and that an update
which leaves a memory's fields alone leaves its reads alone. -/

namespace Sys2Proof.Machine

/-! ### finish -/

@[simp] theorem State.finish_cmd (s : State) : s.finish.cmd = s.cmd := rfl
@[simp] theorem State.finish_wSnap (s : State) : s.finish.wSnap = s.wSnap := rfl
@[simp] theorem State.finish_busy (s : State) : s.finish.busy = false := rfl
@[simp] theorem State.finish_done (s : State) : s.finish.done = true := rfl
@[simp] theorem State.finish_err (s : State) : s.finish.err = s.err := rfl
@[simp] theorem State.finish_errCode (s : State) : s.finish.errCode = s.errCode := rfl
@[simp] theorem State.finish_ieDone (s : State) : s.finish.ieDone = s.ieDone := rfl
@[simp] theorem State.finish_ieErr (s : State) : s.finish.ieErr = s.ieErr := rfl
@[simp] theorem State.finish_width (s : State) : s.finish.width = s.width := rfl
@[simp] theorem State.finish_rowData (s : State) : s.finish.rowData = s.rowData := rfl
@[simp] theorem State.finish_rowPad (s : State) : s.finish.rowPad = s.rowPad := rfl
@[simp] theorem State.finish_rowStride (s : State) : s.finish.rowStride = s.rowStride := rfl
@[simp] theorem State.finish_pv (s : State) : s.finish.pv = s.pv := rfl
@[simp] theorem State.finish_pal (s : State) : s.finish.pal = s.pal := rfl
@[simp] theorem State.finish_rowbuf (s : State) : s.finish.rowbuf = s.rowbuf := rfl
@[simp] theorem State.finish_pixbuf (s : State) : s.finish.pixbuf = s.pixbuf := rfl
@[simp] theorem State.finish_resets (s : State) : s.finish.resets = s.resets := rfl
@[simp] theorem State.finish_env (s : State) : s.finish.env = s.env := rfl
@[simp] theorem State.finish_w (s : State) :
    s.finish.w = s.w := rfl
@[simp] theorem State.finish_rowByte (s : State) (j : Nat) :
    s.finish.rowByte j = s.rowByte j := rfl
@[simp] theorem State.finish_pixel (s : State) (i : Nat) :
    s.finish.pixel i = s.pixel i := rfl
@[simp] theorem State.finish_palEntry (s : State) (k : Nat) :
    s.finish.palEntry k = s.palEntry k := rfl
@[simp] theorem State.finish_valid (s : State) (k : Nat) :
    s.finish.valid k = s.valid k := rfl

/-! ### acceptCommand -/

@[simp] theorem State.acceptCommand_cmd (s : State) (v : Word) : (s.acceptCommand v).cmd = v := rfl
@[simp] theorem State.acceptCommand_wSnap (s : State) (v : Word) : (s.acceptCommand v).wSnap = s.width := rfl
@[simp] theorem State.acceptCommand_busy (s : State) (v : Word) : (s.acceptCommand v).busy = true := rfl
@[simp] theorem State.acceptCommand_done (s : State) (v : Word) : (s.acceptCommand v).done = s.done := rfl
@[simp] theorem State.acceptCommand_err (s : State) (v : Word) : (s.acceptCommand v).err = s.err := rfl
@[simp] theorem State.acceptCommand_errCode (s : State) (v : Word) : (s.acceptCommand v).errCode = s.errCode := rfl
@[simp] theorem State.acceptCommand_ieDone (s : State) (v : Word) : (s.acceptCommand v).ieDone = s.ieDone := rfl
@[simp] theorem State.acceptCommand_ieErr (s : State) (v : Word) : (s.acceptCommand v).ieErr = s.ieErr := rfl
@[simp] theorem State.acceptCommand_width (s : State) (v : Word) : (s.acceptCommand v).width = s.width := rfl
@[simp] theorem State.acceptCommand_rowData (s : State) (v : Word) : (s.acceptCommand v).rowData = s.rowData := rfl
@[simp] theorem State.acceptCommand_rowPad (s : State) (v : Word) : (s.acceptCommand v).rowPad = s.rowPad := rfl
@[simp] theorem State.acceptCommand_rowStride (s : State) (v : Word) :
    (s.acceptCommand v).rowStride =
      s.rowStride :=
  rfl
@[simp] theorem State.acceptCommand_pv (s : State) (v : Word) : (s.acceptCommand v).pv = s.pv := rfl
@[simp] theorem State.acceptCommand_pal (s : State) (v : Word) : (s.acceptCommand v).pal = s.pal := rfl
@[simp] theorem State.acceptCommand_rowbuf (s : State) (v : Word) : (s.acceptCommand v).rowbuf = s.rowbuf := rfl
@[simp] theorem State.acceptCommand_pixbuf (s : State) (v : Word) : (s.acceptCommand v).pixbuf = s.pixbuf := rfl
@[simp] theorem State.acceptCommand_resets (s : State) (v : Word) : (s.acceptCommand v).resets = s.resets := rfl
@[simp] theorem State.acceptCommand_env (s : State) (v : Word) : (s.acceptCommand v).env = s.env := rfl
@[simp] theorem State.acceptCommand_rowByte (s : State) (v : Word) (j : Nat) :
    (s.acceptCommand v).rowByte j = s.rowByte j := rfl
@[simp] theorem State.acceptCommand_pixel (s : State) (v : Word) (i : Nat) :
    (s.acceptCommand v).pixel i = s.pixel i := rfl
@[simp] theorem State.acceptCommand_palEntry (s : State) (v : Word) (k : Nat) :
    (s.acceptCommand v).palEntry k = s.palEntry k := rfl
@[simp] theorem State.acceptCommand_valid (s : State) (v : Word) (k : Nat) :
    (s.acceptCommand v).valid k = s.valid k := rfl
@[simp] theorem State.acceptCommand_irq (s : State) (v : Word) :
    (s.acceptCommand v).irq = s.irq := rfl

/-! ### clearStatus -/

@[simp] theorem State.clearStatus_cmd (s : State) (v : Word) : (s.clearStatus v).cmd = s.cmd := rfl
@[simp] theorem State.clearStatus_wSnap (s : State) (v : Word) : (s.clearStatus v).wSnap = s.wSnap := rfl
@[simp] theorem State.clearStatus_busy (s : State) (v : Word) : (s.clearStatus v).busy = s.busy := rfl
@[simp] theorem State.clearStatus_done (s : State) (v : Word) :
    (s.clearStatus v).done =
      (if v.getLsbD 1 then false else s.done) := rfl
@[simp] theorem State.clearStatus_err (s : State) (v : Word) :
    (s.clearStatus v).err =
      (if v.getLsbD 2 then false else s.err) := rfl
@[simp] theorem State.clearStatus_errCode (s : State) (v : Word) :
    (s.clearStatus v).errCode =
      (if v.getLsbD 2 then .noError else s.errCode) := rfl
@[simp] theorem State.clearStatus_ieDone (s : State) (v : Word) : (s.clearStatus v).ieDone = s.ieDone := rfl
@[simp] theorem State.clearStatus_ieErr (s : State) (v : Word) : (s.clearStatus v).ieErr = s.ieErr := rfl
@[simp] theorem State.clearStatus_width (s : State) (v : Word) : (s.clearStatus v).width = s.width := rfl
@[simp] theorem State.clearStatus_rowData (s : State) (v : Word) : (s.clearStatus v).rowData = s.rowData := rfl
@[simp] theorem State.clearStatus_rowPad (s : State) (v : Word) : (s.clearStatus v).rowPad = s.rowPad := rfl
@[simp] theorem State.clearStatus_rowStride (s : State) (v : Word) : (s.clearStatus v).rowStride = s.rowStride := rfl
@[simp] theorem State.clearStatus_pv (s : State) (v : Word) : (s.clearStatus v).pv = s.pv := rfl
@[simp] theorem State.clearStatus_pal (s : State) (v : Word) : (s.clearStatus v).pal = s.pal := rfl
@[simp] theorem State.clearStatus_rowbuf (s : State) (v : Word) : (s.clearStatus v).rowbuf = s.rowbuf := rfl
@[simp] theorem State.clearStatus_pixbuf (s : State) (v : Word) : (s.clearStatus v).pixbuf = s.pixbuf := rfl
@[simp] theorem State.clearStatus_resets (s : State) (v : Word) : (s.clearStatus v).resets = s.resets := rfl
@[simp] theorem State.clearStatus_env (s : State) (v : Word) : (s.clearStatus v).env = s.env := rfl
@[simp] theorem State.clearStatus_w (s : State) (v : Word) :
    (s.clearStatus v).w = s.w := rfl
@[simp] theorem State.clearStatus_rowByte (s : State) (v : Word) (j : Nat) :
    (s.clearStatus v).rowByte j = s.rowByte j := rfl
@[simp] theorem State.clearStatus_pixel (s : State) (v : Word) (i : Nat) :
    (s.clearStatus v).pixel i = s.pixel i := rfl
@[simp] theorem State.clearStatus_palEntry (s : State) (v : Word) (k : Nat) :
    (s.clearStatus v).palEntry k = s.palEntry k := rfl
@[simp] theorem State.clearStatus_valid (s : State) (v : Word) (k : Nat) :
    (s.clearStatus v).valid k = s.valid k := rfl

/-! ### softReset -/

@[simp] theorem State.softReset_cmd (s : State) : s.softReset.cmd = 0 := rfl
@[simp] theorem State.softReset_wSnap (s : State) : s.softReset.wSnap = 0 := rfl
@[simp] theorem State.softReset_busy (s : State) : s.softReset.busy = false := rfl
@[simp] theorem State.softReset_done (s : State) : s.softReset.done = false := rfl
@[simp] theorem State.softReset_err (s : State) : s.softReset.err = false := rfl
@[simp] theorem State.softReset_errCode (s : State) : s.softReset.errCode = .noError := rfl
@[simp] theorem State.softReset_ieDone (s : State) : s.softReset.ieDone = false := rfl
@[simp] theorem State.softReset_ieErr (s : State) : s.softReset.ieErr = false := rfl
@[simp] theorem State.softReset_width (s : State) : s.softReset.width = 0 := rfl
@[simp] theorem State.softReset_rowData (s : State) : s.softReset.rowData = 0 := rfl
@[simp] theorem State.softReset_rowPad (s : State) : s.softReset.rowPad = 0 := rfl
@[simp] theorem State.softReset_rowStride (s : State) : s.softReset.rowStride = 0 := rfl
@[simp] theorem State.softReset_pv (s : State) : s.softReset.pv = 0 := rfl
@[simp] theorem State.softReset_pal (s : State) : s.softReset.pal = s.pal := rfl
@[simp] theorem State.softReset_rowbuf (s : State) : s.softReset.rowbuf = s.rowbuf := rfl
@[simp] theorem State.softReset_pixbuf (s : State) : s.softReset.pixbuf = s.pixbuf := rfl
@[simp] theorem State.softReset_resets (s : State) : s.softReset.resets = s.resets := rfl
@[simp] theorem State.softReset_env (s : State) : s.softReset.env = s.env := rfl
@[simp] theorem State.softReset_rowByte (s : State) (j : Nat) :
    s.softReset.rowByte j = s.rowByte j := rfl
@[simp] theorem State.softReset_pixel (s : State) (i : Nat) :
    s.softReset.pixel i = s.pixel i := rfl
@[simp] theorem State.softReset_palEntry (s : State) (k : Nat) :
    s.softReset.palEntry k = s.palEntry k := rfl

/-! ### hardReset -/

@[simp] theorem State.hardReset_cmd (s : State) : s.hardReset.cmd = 0 := rfl
@[simp] theorem State.hardReset_wSnap (s : State) : s.hardReset.wSnap = 0 := rfl
@[simp] theorem State.hardReset_busy (s : State) : s.hardReset.busy = false := rfl
@[simp] theorem State.hardReset_done (s : State) : s.hardReset.done = false := rfl
@[simp] theorem State.hardReset_err (s : State) : s.hardReset.err = false := rfl
@[simp] theorem State.hardReset_errCode (s : State) : s.hardReset.errCode = .noError := rfl
@[simp] theorem State.hardReset_ieDone (s : State) : s.hardReset.ieDone = false := rfl
@[simp] theorem State.hardReset_ieErr (s : State) : s.hardReset.ieErr = false := rfl
@[simp] theorem State.hardReset_width (s : State) : s.hardReset.width = 0 := rfl
@[simp] theorem State.hardReset_rowData (s : State) : s.hardReset.rowData = 0 := rfl
@[simp] theorem State.hardReset_rowPad (s : State) : s.hardReset.rowPad = 0 := rfl
@[simp] theorem State.hardReset_rowStride (s : State) : s.hardReset.rowStride = 0 := rfl
@[simp] theorem State.hardReset_pv (s : State) : s.hardReset.pv = 0 := rfl
@[simp] theorem State.hardReset_pal (s : State) : s.hardReset.pal = [] := rfl
@[simp] theorem State.hardReset_rowbuf (s : State) : s.hardReset.rowbuf = [] := rfl
@[simp] theorem State.hardReset_pixbuf (s : State) : s.hardReset.pixbuf = [] := rfl
@[simp] theorem State.hardReset_resets (s : State) : s.hardReset.resets = s.resets + 1 := rfl
@[simp] theorem State.hardReset_env (s : State) : s.hardReset.env = s.env := rfl

/-! ### setGeometry -/

@[simp] theorem State.setGeometry_cmd (s : State) (bc : BitCount) : (s.setGeometry bc).cmd = s.cmd := rfl
@[simp] theorem State.setGeometry_wSnap (s : State) (bc : BitCount) : (s.setGeometry bc).wSnap = s.wSnap := rfl
@[simp] theorem State.setGeometry_busy (s : State) (bc : BitCount) : (s.setGeometry bc).busy = s.busy := rfl
@[simp] theorem State.setGeometry_done (s : State) (bc : BitCount) : (s.setGeometry bc).done = s.done := rfl
@[simp] theorem State.setGeometry_err (s : State) (bc : BitCount) : (s.setGeometry bc).err = s.err := rfl
@[simp] theorem State.setGeometry_errCode (s : State) (bc : BitCount) : (s.setGeometry bc).errCode = s.errCode := rfl
@[simp] theorem State.setGeometry_ieDone (s : State) (bc : BitCount) : (s.setGeometry bc).ieDone = s.ieDone := rfl
@[simp] theorem State.setGeometry_ieErr (s : State) (bc : BitCount) : (s.setGeometry bc).ieErr = s.ieErr := rfl
@[simp] theorem State.setGeometry_width (s : State) (bc : BitCount) : (s.setGeometry bc).width = s.width := rfl
@[simp] theorem State.setGeometry_rowData (s : State) (bc : BitCount) :
    (s.setGeometry bc).rowData =
      BitVec.ofNat 32 (rowDataLen bc s.w) :=
  rfl
@[simp] theorem State.setGeometry_rowPad (s : State) (bc : BitCount) :
    (s.setGeometry bc).rowPad =
      BitVec.ofNat 32 (rowPadLen bc s.w) :=
  rfl
@[simp] theorem State.setGeometry_rowStride (s : State) (bc : BitCount) :
    (s.setGeometry bc).rowStride =
      BitVec.ofNat 32 (rowStrideLen bc s.w) :=
  rfl
@[simp] theorem State.setGeometry_pv (s : State) (bc : BitCount) : (s.setGeometry bc).pv = s.pv := rfl
@[simp] theorem State.setGeometry_pal (s : State) (bc : BitCount) : (s.setGeometry bc).pal = s.pal := rfl
@[simp] theorem State.setGeometry_rowbuf (s : State) (bc : BitCount) : (s.setGeometry bc).rowbuf = s.rowbuf := rfl
@[simp] theorem State.setGeometry_pixbuf (s : State) (bc : BitCount) : (s.setGeometry bc).pixbuf = s.pixbuf := rfl
@[simp] theorem State.setGeometry_resets (s : State) (bc : BitCount) : (s.setGeometry bc).resets = s.resets := rfl
@[simp] theorem State.setGeometry_env (s : State) (bc : BitCount) : (s.setGeometry bc).env = s.env := rfl
@[simp] theorem State.setGeometry_w (s : State) (bc : BitCount) :
    (s.setGeometry bc).w = s.w := rfl
@[simp] theorem State.setGeometry_rowByte (s : State) (bc : BitCount) (j : Nat) :
    (s.setGeometry bc).rowByte j = s.rowByte j := rfl
@[simp] theorem State.setGeometry_pixel (s : State) (bc : BitCount) (i : Nat) :
    (s.setGeometry bc).pixel i = s.pixel i := rfl
@[simp] theorem State.setGeometry_palEntry (s : State) (bc : BitCount) (k : Nat) :
    (s.setGeometry bc).palEntry k = s.palEntry k := rfl
@[simp] theorem State.setGeometry_valid (s : State) (bc : BitCount) (k : Nat) :
    (s.setGeometry bc).valid k = s.valid k := rfl
@[simp] theorem State.setGeometry_irq (s : State) (bc : BitCount) :
    (s.setGeometry bc).irq = s.irq := rfl

/-! ### writePixels -/

@[simp] theorem State.writePixels_cmd (s : State) (ps : List Pixel) : (s.writePixels ps).cmd = s.cmd := rfl
@[simp] theorem State.writePixels_wSnap (s : State) (ps : List Pixel) : (s.writePixels ps).wSnap = s.wSnap := rfl
@[simp] theorem State.writePixels_busy (s : State) (ps : List Pixel) : (s.writePixels ps).busy = s.busy := rfl
@[simp] theorem State.writePixels_done (s : State) (ps : List Pixel) : (s.writePixels ps).done = s.done := rfl
@[simp] theorem State.writePixels_err (s : State) (ps : List Pixel) : (s.writePixels ps).err = s.err := rfl
@[simp] theorem State.writePixels_errCode (s : State) (ps : List Pixel) : (s.writePixels ps).errCode = s.errCode := rfl
@[simp] theorem State.writePixels_ieDone (s : State) (ps : List Pixel) : (s.writePixels ps).ieDone = s.ieDone := rfl
@[simp] theorem State.writePixels_ieErr (s : State) (ps : List Pixel) : (s.writePixels ps).ieErr = s.ieErr := rfl
@[simp] theorem State.writePixels_width (s : State) (ps : List Pixel) : (s.writePixels ps).width = s.width := rfl
@[simp] theorem State.writePixels_rowData (s : State) (ps : List Pixel) : (s.writePixels ps).rowData = s.rowData := rfl
@[simp] theorem State.writePixels_rowPad (s : State) (ps : List Pixel) : (s.writePixels ps).rowPad = s.rowPad := rfl
@[simp] theorem State.writePixels_rowStride (s : State) (ps : List Pixel) :
    (s.writePixels ps).rowStride =
      s.rowStride :=
  rfl
@[simp] theorem State.writePixels_pv (s : State) (ps : List Pixel) : (s.writePixels ps).pv = s.pv := rfl
@[simp] theorem State.writePixels_pal (s : State) (ps : List Pixel) : (s.writePixels ps).pal = s.pal := rfl
@[simp] theorem State.writePixels_rowbuf (s : State) (ps : List Pixel) : (s.writePixels ps).rowbuf = s.rowbuf := rfl
@[simp] theorem State.writePixels_pixbuf (s : State) (ps : List Pixel) :
    (s.writePixels ps).pixbuf =
      Memory.writeSeq s.pixbuf 0 ps :=
  rfl
@[simp] theorem State.writePixels_resets (s : State) (ps : List Pixel) : (s.writePixels ps).resets = s.resets := rfl
@[simp] theorem State.writePixels_env (s : State) (ps : List Pixel) : (s.writePixels ps).env = s.env := rfl
@[simp] theorem State.writePixels_w (s : State) (ps : List Pixel) :
    (s.writePixels ps).w = s.w := rfl
@[simp] theorem State.writePixels_rowByte (s : State) (ps : List Pixel) (j : Nat) :
    (s.writePixels ps).rowByte j = s.rowByte j := rfl
@[simp] theorem State.writePixels_palEntry (s : State) (ps : List Pixel) (k : Nat) :
    (s.writePixels ps).palEntry k = s.palEntry k := rfl
@[simp] theorem State.writePixels_valid (s : State) (ps : List Pixel) (k : Nat) :
    (s.writePixels ps).valid k = s.valid k := rfl
@[simp] theorem State.writePixels_irq (s : State) (ps : List Pixel) :
    (s.writePixels ps).irq = s.irq := rfl

/-! ### writeRowFrom -/

@[simp] theorem State.writeRowFrom_cmd (s : State) (j : Nat) (bs : List Byte) : (s.writeRowFrom j bs).cmd = s.cmd := rfl
@[simp] theorem State.writeRowFrom_wSnap (s : State) (j : Nat) (bs : List Byte) :
    (s.writeRowFrom j bs).wSnap =
      s.wSnap :=
  rfl
@[simp] theorem State.writeRowFrom_busy (s : State) (j : Nat) (bs : List Byte) :
    (s.writeRowFrom j bs).busy =
      s.busy :=
  rfl
@[simp] theorem State.writeRowFrom_done (s : State) (j : Nat) (bs : List Byte) :
    (s.writeRowFrom j bs).done =
      s.done :=
  rfl
@[simp] theorem State.writeRowFrom_err (s : State) (j : Nat) (bs : List Byte) : (s.writeRowFrom j bs).err = s.err := rfl
@[simp] theorem State.writeRowFrom_errCode (s : State) (j : Nat) (bs : List Byte) :
    (s.writeRowFrom j bs).errCode =
      s.errCode :=
  rfl
@[simp] theorem State.writeRowFrom_ieDone (s : State) (j : Nat) (bs : List Byte) :
    (s.writeRowFrom j bs).ieDone =
      s.ieDone :=
  rfl
@[simp] theorem State.writeRowFrom_ieErr (s : State) (j : Nat) (bs : List Byte) :
    (s.writeRowFrom j bs).ieErr =
      s.ieErr :=
  rfl
@[simp] theorem State.writeRowFrom_width (s : State) (j : Nat) (bs : List Byte) :
    (s.writeRowFrom j bs).width =
      s.width :=
  rfl
@[simp] theorem State.writeRowFrom_rowData (s : State) (j : Nat) (bs : List Byte) :
    (s.writeRowFrom j bs).rowData =
      s.rowData :=
  rfl
@[simp] theorem State.writeRowFrom_rowPad (s : State) (j : Nat) (bs : List Byte) :
    (s.writeRowFrom j bs).rowPad =
      s.rowPad :=
  rfl
@[simp] theorem State.writeRowFrom_rowStride (s : State) (j : Nat) (bs : List Byte) :
    (s.writeRowFrom j bs).rowStride =
      s.rowStride :=
  rfl
@[simp] theorem State.writeRowFrom_pv (s : State) (j : Nat) (bs : List Byte) : (s.writeRowFrom j bs).pv = s.pv := rfl
@[simp] theorem State.writeRowFrom_pal (s : State) (j : Nat) (bs : List Byte) : (s.writeRowFrom j bs).pal = s.pal := rfl
@[simp] theorem State.writeRowFrom_rowbuf (s : State) (j : Nat) (bs : List Byte) :
    (s.writeRowFrom j bs).rowbuf =
      Memory.writeSeq s.rowbuf j bs :=
  rfl
@[simp] theorem State.writeRowFrom_pixbuf (s : State) (j : Nat) (bs : List Byte) :
    (s.writeRowFrom j bs).pixbuf =
      s.pixbuf :=
  rfl
@[simp] theorem State.writeRowFrom_resets (s : State) (j : Nat) (bs : List Byte) :
    (s.writeRowFrom j bs).resets =
      s.resets :=
  rfl
@[simp] theorem State.writeRowFrom_env (s : State) (j : Nat) (bs : List Byte) : (s.writeRowFrom j bs).env = s.env := rfl
@[simp] theorem State.writeRowFrom_w (s : State) (j : Nat) (bs : List Byte) :
    (s.writeRowFrom j bs).w = s.w := rfl
@[simp] theorem State.writeRowFrom_pixel (s : State) (j : Nat) (bs : List Byte) (i : Nat) :
    (s.writeRowFrom j bs).pixel i = s.pixel i := rfl
@[simp] theorem State.writeRowFrom_palEntry (s : State) (j : Nat) (bs : List Byte) (k : Nat) :
    (s.writeRowFrom j bs).palEntry k = s.palEntry k := rfl
@[simp] theorem State.writeRowFrom_valid (s : State) (j : Nat) (bs : List Byte) (k : Nat) :
    (s.writeRowFrom j bs).valid k = s.valid k := rfl
@[simp] theorem State.writeRowFrom_irq (s : State) (j : Nat) (bs : List Byte) :
    (s.writeRowFrom j bs).irq = s.irq := rfl

/-! ### writeStoredRow -/

@[simp] theorem State.writeStoredRow_cmd (s : State) (bc : BitCount) (bs : List Byte) :
    (s.writeStoredRow bc bs).cmd =
      s.cmd :=
  rfl
@[simp] theorem State.writeStoredRow_wSnap (s : State) (bc : BitCount) (bs : List Byte) :
    (s.writeStoredRow bc bs).wSnap =
      s.wSnap :=
  rfl
@[simp] theorem State.writeStoredRow_busy (s : State) (bc : BitCount) (bs : List Byte) :
    (s.writeStoredRow bc bs).busy =
      s.busy :=
  rfl
@[simp] theorem State.writeStoredRow_done (s : State) (bc : BitCount) (bs : List Byte) :
    (s.writeStoredRow bc bs).done =
      s.done :=
  rfl
@[simp] theorem State.writeStoredRow_err (s : State) (bc : BitCount) (bs : List Byte) :
    (s.writeStoredRow bc bs).err =
      s.err :=
  rfl
@[simp] theorem State.writeStoredRow_errCode (s : State) (bc : BitCount) (bs : List Byte) :
    (s.writeStoredRow bc bs).errCode =
      s.errCode :=
  rfl
@[simp] theorem State.writeStoredRow_ieDone (s : State) (bc : BitCount) (bs : List Byte) :
    (s.writeStoredRow bc bs).ieDone =
      s.ieDone :=
  rfl
@[simp] theorem State.writeStoredRow_ieErr (s : State) (bc : BitCount) (bs : List Byte) :
    (s.writeStoredRow bc bs).ieErr =
      s.ieErr :=
  rfl
@[simp] theorem State.writeStoredRow_width (s : State) (bc : BitCount) (bs : List Byte) :
    (s.writeStoredRow bc bs).width =
      s.width :=
  rfl
@[simp] theorem State.writeStoredRow_rowData (s : State) (bc : BitCount) (bs : List Byte) :
    (s.writeStoredRow bc bs).rowData =
      s.rowData :=
  rfl
@[simp] theorem State.writeStoredRow_rowPad (s : State) (bc : BitCount) (bs : List Byte) :
    (s.writeStoredRow bc bs).rowPad =
      s.rowPad :=
  rfl
@[simp] theorem State.writeStoredRow_rowStride (s : State) (bc : BitCount) (bs : List Byte) :
    (s.writeStoredRow bc bs).rowStride =
      s.rowStride :=
  rfl
@[simp] theorem State.writeStoredRow_pv (s : State) (bc : BitCount) (bs : List Byte) :
    (s.writeStoredRow bc bs).pv =
      s.pv :=
  rfl
@[simp] theorem State.writeStoredRow_pal (s : State) (bc : BitCount) (bs : List Byte) :
    (s.writeStoredRow bc bs).pal =
      s.pal :=
  rfl
@[simp] theorem State.writeStoredRow_rowbuf (s : State) (bc : BitCount) (bs : List Byte) :
    (s.writeStoredRow bc bs).rowbuf =
      Memory.writeSeq s.rowbuf 0 (bs ++ List.replicate (rowPadLen bc s.w) 0x00) :=
  rfl
@[simp] theorem State.writeStoredRow_pixbuf (s : State) (bc : BitCount) (bs : List Byte) :
    (s.writeStoredRow bc bs).pixbuf =
      s.pixbuf :=
  rfl
@[simp] theorem State.writeStoredRow_resets (s : State) (bc : BitCount) (bs : List Byte) :
    (s.writeStoredRow bc bs).resets =
      s.resets :=
  rfl
@[simp] theorem State.writeStoredRow_env (s : State) (bc : BitCount) (bs : List Byte) :
    (s.writeStoredRow bc bs).env =
      s.env :=
  rfl
@[simp] theorem State.writeStoredRow_w (s : State) (bc : BitCount) (bs : List Byte) :
    (s.writeStoredRow bc bs).w = s.w := rfl
@[simp] theorem State.writeStoredRow_pixel (s : State) (bc : BitCount) (bs : List Byte) (i : Nat) :
    (s.writeStoredRow bc bs).pixel i = s.pixel i := rfl
@[simp] theorem State.writeStoredRow_palEntry (s : State) (bc : BitCount) (bs : List Byte) (k : Nat) :
    (s.writeStoredRow bc bs).palEntry k = s.palEntry k := rfl
@[simp] theorem State.writeStoredRow_valid (s : State) (bc : BitCount) (bs : List Byte) (k : Nat) :
    (s.writeStoredRow bc bs).valid k = s.valid k := rfl
@[simp] theorem State.writeStoredRow_irq (s : State) (bc : BitCount) (bs : List Byte) :
    (s.writeStoredRow bc bs).irq = s.irq := rfl

/-! ### writePalette -/

@[simp] theorem State.writePalette_cmd (s : State) (es : List PalEntry) : (s.writePalette es).cmd = s.cmd := rfl
@[simp] theorem State.writePalette_wSnap (s : State) (es : List PalEntry) : (s.writePalette es).wSnap = s.wSnap := rfl
@[simp] theorem State.writePalette_busy (s : State) (es : List PalEntry) : (s.writePalette es).busy = s.busy := rfl
@[simp] theorem State.writePalette_done (s : State) (es : List PalEntry) : (s.writePalette es).done = s.done := rfl
@[simp] theorem State.writePalette_err (s : State) (es : List PalEntry) : (s.writePalette es).err = s.err := rfl
@[simp] theorem State.writePalette_errCode (s : State) (es : List PalEntry) :
    (s.writePalette es).errCode =
      s.errCode :=
  rfl
@[simp] theorem State.writePalette_ieDone (s : State) (es : List PalEntry) :
    (s.writePalette es).ieDone =
      s.ieDone :=
  rfl
@[simp] theorem State.writePalette_ieErr (s : State) (es : List PalEntry) : (s.writePalette es).ieErr = s.ieErr := rfl
@[simp] theorem State.writePalette_width (s : State) (es : List PalEntry) : (s.writePalette es).width = s.width := rfl
@[simp] theorem State.writePalette_rowData (s : State) (es : List PalEntry) :
    (s.writePalette es).rowData =
      s.rowData :=
  rfl
@[simp] theorem State.writePalette_rowPad (s : State) (es : List PalEntry) :
    (s.writePalette es).rowPad =
      s.rowPad :=
  rfl
@[simp] theorem State.writePalette_rowStride (s : State) (es : List PalEntry) :
    (s.writePalette es).rowStride =
      s.rowStride :=
  rfl
@[simp] theorem State.writePalette_pv (s : State) (es : List PalEntry) :
    (s.writePalette es).pv =
      s.pv ||| validBelow es.length :=
  rfl
@[simp] theorem State.writePalette_pal (s : State) (es : List PalEntry) :
    (s.writePalette es).pal =
      Memory.writeSeq s.pal 0 es :=
  rfl
@[simp] theorem State.writePalette_rowbuf (s : State) (es : List PalEntry) :
    (s.writePalette es).rowbuf =
      s.rowbuf :=
  rfl
@[simp] theorem State.writePalette_pixbuf (s : State) (es : List PalEntry) :
    (s.writePalette es).pixbuf =
      s.pixbuf :=
  rfl
@[simp] theorem State.writePalette_resets (s : State) (es : List PalEntry) :
    (s.writePalette es).resets =
      s.resets :=
  rfl
@[simp] theorem State.writePalette_env (s : State) (es : List PalEntry) : (s.writePalette es).env = s.env := rfl
@[simp] theorem State.writePalette_w (s : State) (es : List PalEntry) :
    (s.writePalette es).w = s.w := rfl
@[simp] theorem State.writePalette_rowByte (s : State) (es : List PalEntry) (j : Nat) :
    (s.writePalette es).rowByte j = s.rowByte j := rfl
@[simp] theorem State.writePalette_pixel (s : State) (es : List PalEntry) (i : Nat) :
    (s.writePalette es).pixel i = s.pixel i := rfl
@[simp] theorem State.writePalette_irq (s : State) (es : List PalEntry) :
    (s.writePalette es).irq = s.irq := rfl

/-! ### writePalWord -/

@[simp] theorem State.writePalWord_cmd (s : State) (k : Nat) (v : Word) : (s.writePalWord k v).cmd = s.cmd := rfl
@[simp] theorem State.writePalWord_wSnap (s : State) (k : Nat) (v : Word) : (s.writePalWord k v).wSnap = s.wSnap := rfl
@[simp] theorem State.writePalWord_busy (s : State) (k : Nat) (v : Word) : (s.writePalWord k v).busy = s.busy := rfl
@[simp] theorem State.writePalWord_done (s : State) (k : Nat) (v : Word) : (s.writePalWord k v).done = s.done := rfl
@[simp] theorem State.writePalWord_err (s : State) (k : Nat) (v : Word) : (s.writePalWord k v).err = s.err := rfl
@[simp] theorem State.writePalWord_errCode (s : State) (k : Nat) (v : Word) :
    (s.writePalWord k v).errCode =
      s.errCode :=
  rfl
@[simp] theorem State.writePalWord_ieDone (s : State) (k : Nat) (v : Word) :
    (s.writePalWord k v).ieDone =
      s.ieDone :=
  rfl
@[simp] theorem State.writePalWord_ieErr (s : State) (k : Nat) (v : Word) : (s.writePalWord k v).ieErr = s.ieErr := rfl
@[simp] theorem State.writePalWord_width (s : State) (k : Nat) (v : Word) : (s.writePalWord k v).width = s.width := rfl
@[simp] theorem State.writePalWord_rowData (s : State) (k : Nat) (v : Word) :
    (s.writePalWord k v).rowData =
      s.rowData :=
  rfl
@[simp] theorem State.writePalWord_rowPad (s : State) (k : Nat) (v : Word) :
    (s.writePalWord k v).rowPad =
      s.rowPad :=
  rfl
@[simp] theorem State.writePalWord_rowStride (s : State) (k : Nat) (v : Word) :
    (s.writePalWord k v).rowStride =
      s.rowStride :=
  rfl
@[simp] theorem State.writePalWord_pv (s : State) (k : Nat) (v : Word) :
    (s.writePalWord k v).pv =
      s.pv ||| BitVec.twoPow 256 k :=
  rfl
@[simp] theorem State.writePalWord_pal (s : State) (k : Nat) (v : Word) :
    (s.writePalWord k v).pal =
      Memory.write s.pal k (palEntryOfWord v) :=
  rfl
@[simp] theorem State.writePalWord_rowbuf (s : State) (k : Nat) (v : Word) :
    (s.writePalWord k v).rowbuf =
      s.rowbuf :=
  rfl
@[simp] theorem State.writePalWord_pixbuf (s : State) (k : Nat) (v : Word) :
    (s.writePalWord k v).pixbuf =
      s.pixbuf :=
  rfl
@[simp] theorem State.writePalWord_resets (s : State) (k : Nat) (v : Word) :
    (s.writePalWord k v).resets =
      s.resets :=
  rfl
@[simp] theorem State.writePalWord_env (s : State) (k : Nat) (v : Word) : (s.writePalWord k v).env = s.env := rfl
@[simp] theorem State.writePalWord_w (s : State) (k : Nat) (v : Word) :
    (s.writePalWord k v).w = s.w := rfl
@[simp] theorem State.writePalWord_rowByte (s : State) (k : Nat) (v : Word) (j : Nat) :
    (s.writePalWord k v).rowByte j = s.rowByte j := rfl
@[simp] theorem State.writePalWord_pixel (s : State) (k : Nat) (v : Word) (i : Nat) :
    (s.writePalWord k v).pixel i = s.pixel i := rfl
@[simp] theorem State.writePalWord_irq (s : State) (k : Nat) (v : Word) :
    (s.writePalWord k v).irq = s.irq := rfl

/-! ### clearPalette -/

@[simp] theorem State.clearPalette_cmd (s : State) : s.clearPalette.cmd = s.cmd := rfl
@[simp] theorem State.clearPalette_wSnap (s : State) : s.clearPalette.wSnap = s.wSnap := rfl
@[simp] theorem State.clearPalette_busy (s : State) : s.clearPalette.busy = s.busy := rfl
@[simp] theorem State.clearPalette_done (s : State) : s.clearPalette.done = s.done := rfl
@[simp] theorem State.clearPalette_err (s : State) : s.clearPalette.err = s.err := rfl
@[simp] theorem State.clearPalette_errCode (s : State) : s.clearPalette.errCode = s.errCode := rfl
@[simp] theorem State.clearPalette_ieDone (s : State) : s.clearPalette.ieDone = s.ieDone := rfl
@[simp] theorem State.clearPalette_ieErr (s : State) : s.clearPalette.ieErr = s.ieErr := rfl
@[simp] theorem State.clearPalette_width (s : State) : s.clearPalette.width = s.width := rfl
@[simp] theorem State.clearPalette_rowData (s : State) : s.clearPalette.rowData = s.rowData := rfl
@[simp] theorem State.clearPalette_rowPad (s : State) : s.clearPalette.rowPad = s.rowPad := rfl
@[simp] theorem State.clearPalette_rowStride (s : State) : s.clearPalette.rowStride = s.rowStride := rfl
@[simp] theorem State.clearPalette_pv (s : State) : s.clearPalette.pv = 0 := rfl
@[simp] theorem State.clearPalette_pal (s : State) : s.clearPalette.pal = Memory.writeSeq s.pal 0 clearedEntries := by
  simp only [State.clearPalette]
@[simp] theorem State.clearPalette_rowbuf (s : State) : s.clearPalette.rowbuf = s.rowbuf := rfl
@[simp] theorem State.clearPalette_pixbuf (s : State) : s.clearPalette.pixbuf = s.pixbuf := rfl
@[simp] theorem State.clearPalette_resets (s : State) : s.clearPalette.resets = s.resets := rfl
@[simp] theorem State.clearPalette_env (s : State) : s.clearPalette.env = s.env := rfl
@[simp] theorem State.clearPalette_w (s : State) :
    s.clearPalette.w = s.w := rfl
@[simp] theorem State.clearPalette_rowByte (s : State) (j : Nat) :
    s.clearPalette.rowByte j = s.rowByte j := rfl
@[simp] theorem State.clearPalette_pixel (s : State) (i : Nat) :
    s.clearPalette.pixel i = s.pixel i := rfl
@[simp] theorem State.clearPalette_irq (s : State) :
    s.clearPalette.irq = s.irq := rfl

/-! ### writeRowWord -/

@[simp] theorem State.writeRowWord_cmd (s : State) (k : Nat) (v : Word) : (s.writeRowWord k v).cmd = s.cmd := rfl
@[simp] theorem State.writeRowWord_wSnap (s : State) (k : Nat) (v : Word) : (s.writeRowWord k v).wSnap = s.wSnap := rfl
@[simp] theorem State.writeRowWord_busy (s : State) (k : Nat) (v : Word) : (s.writeRowWord k v).busy = s.busy := rfl
@[simp] theorem State.writeRowWord_done (s : State) (k : Nat) (v : Word) : (s.writeRowWord k v).done = s.done := rfl
@[simp] theorem State.writeRowWord_err (s : State) (k : Nat) (v : Word) : (s.writeRowWord k v).err = s.err := rfl
@[simp] theorem State.writeRowWord_errCode (s : State) (k : Nat) (v : Word) :
    (s.writeRowWord k v).errCode =
      s.errCode :=
  rfl
@[simp] theorem State.writeRowWord_ieDone (s : State) (k : Nat) (v : Word) :
    (s.writeRowWord k v).ieDone =
      s.ieDone :=
  rfl
@[simp] theorem State.writeRowWord_ieErr (s : State) (k : Nat) (v : Word) : (s.writeRowWord k v).ieErr = s.ieErr := rfl
@[simp] theorem State.writeRowWord_width (s : State) (k : Nat) (v : Word) : (s.writeRowWord k v).width = s.width := rfl
@[simp] theorem State.writeRowWord_rowData (s : State) (k : Nat) (v : Word) :
    (s.writeRowWord k v).rowData =
      s.rowData :=
  rfl
@[simp] theorem State.writeRowWord_rowPad (s : State) (k : Nat) (v : Word) :
    (s.writeRowWord k v).rowPad =
      s.rowPad :=
  rfl
@[simp] theorem State.writeRowWord_rowStride (s : State) (k : Nat) (v : Word) :
    (s.writeRowWord k v).rowStride =
      s.rowStride :=
  rfl
@[simp] theorem State.writeRowWord_pv (s : State) (k : Nat) (v : Word) : (s.writeRowWord k v).pv = s.pv := rfl
@[simp] theorem State.writeRowWord_pal (s : State) (k : Nat) (v : Word) : (s.writeRowWord k v).pal = s.pal := rfl
@[simp] theorem State.writeRowWord_rowbuf (s : State) (k : Nat) (v : Word) :
    (s.writeRowWord k v).rowbuf =
      Memory.writeSeq s.rowbuf (4 * k) [v.extractLsb' 0 8, v.extractLsb' 8 8, v.extractLsb' 16 8, v.extractLsb' 24 8] :=
  rfl
@[simp] theorem State.writeRowWord_pixbuf (s : State) (k : Nat) (v : Word) :
    (s.writeRowWord k v).pixbuf =
      s.pixbuf :=
  rfl
@[simp] theorem State.writeRowWord_resets (s : State) (k : Nat) (v : Word) :
    (s.writeRowWord k v).resets =
      s.resets :=
  rfl
@[simp] theorem State.writeRowWord_env (s : State) (k : Nat) (v : Word) : (s.writeRowWord k v).env = s.env := rfl
@[simp] theorem State.writeRowWord_w (s : State) (k : Nat) (v : Word) :
    (s.writeRowWord k v).w = s.w := rfl
@[simp] theorem State.writeRowWord_pixel (s : State) (k : Nat) (v : Word) (i : Nat) :
    (s.writeRowWord k v).pixel i = s.pixel i := rfl
@[simp] theorem State.writeRowWord_palEntry (s : State) (k : Nat) (v : Word) (m : Nat) :
    (s.writeRowWord k v).palEntry m = s.palEntry m := rfl
@[simp] theorem State.writeRowWord_valid (s : State) (k : Nat) (v : Word) (m : Nat) :
    (s.writeRowWord k v).valid m = s.valid m := rfl
@[simp] theorem State.writeRowWord_irq (s : State) (k : Nat) (v : Word) :
    (s.writeRowWord k v).irq = s.irq := rfl

/-! ### writePixWord -/

@[simp] theorem State.writePixWord_cmd (s : State) (i : Nat) (v : Word) : (s.writePixWord i v).cmd = s.cmd := rfl
@[simp] theorem State.writePixWord_wSnap (s : State) (i : Nat) (v : Word) : (s.writePixWord i v).wSnap = s.wSnap := rfl
@[simp] theorem State.writePixWord_busy (s : State) (i : Nat) (v : Word) : (s.writePixWord i v).busy = s.busy := rfl
@[simp] theorem State.writePixWord_done (s : State) (i : Nat) (v : Word) : (s.writePixWord i v).done = s.done := rfl
@[simp] theorem State.writePixWord_err (s : State) (i : Nat) (v : Word) : (s.writePixWord i v).err = s.err := rfl
@[simp] theorem State.writePixWord_errCode (s : State) (i : Nat) (v : Word) :
    (s.writePixWord i v).errCode =
      s.errCode :=
  rfl
@[simp] theorem State.writePixWord_ieDone (s : State) (i : Nat) (v : Word) :
    (s.writePixWord i v).ieDone =
      s.ieDone :=
  rfl
@[simp] theorem State.writePixWord_ieErr (s : State) (i : Nat) (v : Word) : (s.writePixWord i v).ieErr = s.ieErr := rfl
@[simp] theorem State.writePixWord_width (s : State) (i : Nat) (v : Word) : (s.writePixWord i v).width = s.width := rfl
@[simp] theorem State.writePixWord_rowData (s : State) (i : Nat) (v : Word) :
    (s.writePixWord i v).rowData =
      s.rowData :=
  rfl
@[simp] theorem State.writePixWord_rowPad (s : State) (i : Nat) (v : Word) :
    (s.writePixWord i v).rowPad =
      s.rowPad :=
  rfl
@[simp] theorem State.writePixWord_rowStride (s : State) (i : Nat) (v : Word) :
    (s.writePixWord i v).rowStride =
      s.rowStride :=
  rfl
@[simp] theorem State.writePixWord_pv (s : State) (i : Nat) (v : Word) : (s.writePixWord i v).pv = s.pv := rfl
@[simp] theorem State.writePixWord_pal (s : State) (i : Nat) (v : Word) : (s.writePixWord i v).pal = s.pal := rfl
@[simp] theorem State.writePixWord_rowbuf (s : State) (i : Nat) (v : Word) :
    (s.writePixWord i v).rowbuf =
      s.rowbuf :=
  rfl
@[simp] theorem State.writePixWord_pixbuf (s : State) (i : Nat) (v : Word) :
    (s.writePixWord i v).pixbuf =
      Memory.write s.pixbuf i (pixelOfBits (v.extractLsb' 0 24)) :=
  rfl
@[simp] theorem State.writePixWord_resets (s : State) (i : Nat) (v : Word) :
    (s.writePixWord i v).resets =
      s.resets :=
  rfl
@[simp] theorem State.writePixWord_env (s : State) (i : Nat) (v : Word) : (s.writePixWord i v).env = s.env := rfl
@[simp] theorem State.writePixWord_w (s : State) (i : Nat) (v : Word) :
    (s.writePixWord i v).w = s.w := rfl
@[simp] theorem State.writePixWord_rowByte (s : State) (i : Nat) (v : Word) (j : Nat) :
    (s.writePixWord i v).rowByte j = s.rowByte j := rfl
@[simp] theorem State.writePixWord_palEntry (s : State) (i : Nat) (v : Word) (k : Nat) :
    (s.writePixWord i v).palEntry k = s.palEntry k := rfl
@[simp] theorem State.writePixWord_valid (s : State) (i : Nat) (v : Word) (k : Nat) :
    (s.writePixWord i v).valid k = s.valid k := rfl
@[simp] theorem State.writePixWord_irq (s : State) (i : Nat) (v : Word) :
    (s.writePixWord i v).irq = s.irq := rfl

/-! ### respond -/

@[simp] theorem State.respond_cmd (s : State) (p : List HostOp) (r : BusResponse) : (s.respond p r).cmd = s.cmd := rfl
@[simp] theorem State.respond_wSnap (s : State) (p : List HostOp) (r : BusResponse) :
    (s.respond p r).wSnap =
      s.wSnap :=
  rfl
@[simp] theorem State.respond_busy (s : State) (p : List HostOp) (r : BusResponse) :
    (s.respond p r).busy =
      s.busy :=
  rfl
@[simp] theorem State.respond_done (s : State) (p : List HostOp) (r : BusResponse) :
    (s.respond p r).done =
      s.done :=
  rfl
@[simp] theorem State.respond_err (s : State) (p : List HostOp) (r : BusResponse) : (s.respond p r).err = s.err := rfl
@[simp] theorem State.respond_errCode (s : State) (p : List HostOp) (r : BusResponse) :
    (s.respond p r).errCode =
      s.errCode :=
  rfl
@[simp] theorem State.respond_ieDone (s : State) (p : List HostOp) (r : BusResponse) :
    (s.respond p r).ieDone =
      s.ieDone :=
  rfl
@[simp] theorem State.respond_ieErr (s : State) (p : List HostOp) (r : BusResponse) :
    (s.respond p r).ieErr =
      s.ieErr :=
  rfl
@[simp] theorem State.respond_width (s : State) (p : List HostOp) (r : BusResponse) :
    (s.respond p r).width =
      s.width :=
  rfl
@[simp] theorem State.respond_rowData (s : State) (p : List HostOp) (r : BusResponse) :
    (s.respond p r).rowData =
      s.rowData :=
  rfl
@[simp] theorem State.respond_rowPad (s : State) (p : List HostOp) (r : BusResponse) :
    (s.respond p r).rowPad =
      s.rowPad :=
  rfl
@[simp] theorem State.respond_rowStride (s : State) (p : List HostOp) (r : BusResponse) :
    (s.respond p r).rowStride =
      s.rowStride :=
  rfl
@[simp] theorem State.respond_pv (s : State) (p : List HostOp) (r : BusResponse) : (s.respond p r).pv = s.pv := rfl
@[simp] theorem State.respond_pal (s : State) (p : List HostOp) (r : BusResponse) : (s.respond p r).pal = s.pal := rfl
@[simp] theorem State.respond_rowbuf (s : State) (p : List HostOp) (r : BusResponse) :
    (s.respond p r).rowbuf =
      s.rowbuf :=
  rfl
@[simp] theorem State.respond_pixbuf (s : State) (p : List HostOp) (r : BusResponse) :
    (s.respond p r).pixbuf =
      s.pixbuf :=
  rfl
@[simp] theorem State.respond_resets (s : State) (p : List HostOp) (r : BusResponse) :
    (s.respond p r).resets =
      s.resets :=
  rfl
@[simp] theorem State.respond_env (s : State) (p : List HostOp) (r : BusResponse) :
    (s.respond p r).env =
      { s.env with program := p, responses := r :: s.env.responses } :=
  rfl
@[simp] theorem State.respond_w (s : State) (p : List HostOp) (r : BusResponse) :
    (s.respond p r).w = s.w := rfl
@[simp] theorem State.respond_rowByte (s : State) (p : List HostOp) (r : BusResponse) (j : Nat) :
    (s.respond p r).rowByte j = s.rowByte j := rfl
@[simp] theorem State.respond_pixel (s : State) (p : List HostOp) (r : BusResponse) (i : Nat) :
    (s.respond p r).pixel i = s.pixel i := rfl
@[simp] theorem State.respond_palEntry (s : State) (p : List HostOp) (r : BusResponse) (k : Nat) :
    (s.respond p r).palEntry k = s.palEntry k := rfl
@[simp] theorem State.respond_valid (s : State) (p : List HostOp) (r : BusResponse) (k : Nat) :
    (s.respond p r).valid k = s.valid k := rfl
@[simp] theorem State.respond_irq (s : State) (p : List HostOp) (r : BusResponse) :
    (s.respond p r).irq = s.irq := rfl

/-! ### nextTurn -/

@[simp] theorem State.nextTurn_cmd (s : State) : s.nextTurn.cmd = s.cmd := rfl
@[simp] theorem State.nextTurn_wSnap (s : State) : s.nextTurn.wSnap = s.wSnap := rfl
@[simp] theorem State.nextTurn_busy (s : State) : s.nextTurn.busy = s.busy := rfl
@[simp] theorem State.nextTurn_done (s : State) : s.nextTurn.done = s.done := rfl
@[simp] theorem State.nextTurn_err (s : State) : s.nextTurn.err = s.err := rfl
@[simp] theorem State.nextTurn_errCode (s : State) : s.nextTurn.errCode = s.errCode := rfl
@[simp] theorem State.nextTurn_ieDone (s : State) : s.nextTurn.ieDone = s.ieDone := rfl
@[simp] theorem State.nextTurn_ieErr (s : State) : s.nextTurn.ieErr = s.ieErr := rfl
@[simp] theorem State.nextTurn_width (s : State) : s.nextTurn.width = s.width := rfl
@[simp] theorem State.nextTurn_rowData (s : State) : s.nextTurn.rowData = s.rowData := rfl
@[simp] theorem State.nextTurn_rowPad (s : State) : s.nextTurn.rowPad = s.rowPad := rfl
@[simp] theorem State.nextTurn_rowStride (s : State) : s.nextTurn.rowStride = s.rowStride := rfl
@[simp] theorem State.nextTurn_pv (s : State) : s.nextTurn.pv = s.pv := rfl
@[simp] theorem State.nextTurn_pal (s : State) : s.nextTurn.pal = s.pal := rfl
@[simp] theorem State.nextTurn_rowbuf (s : State) : s.nextTurn.rowbuf = s.rowbuf := rfl
@[simp] theorem State.nextTurn_pixbuf (s : State) : s.nextTurn.pixbuf = s.pixbuf := rfl
@[simp] theorem State.nextTurn_resets (s : State) : s.nextTurn.resets = s.resets := rfl
@[simp] theorem State.nextTurn_env (s : State) : s.nextTurn.env = { s.env with schedule := s.env.schedule.tail } := rfl
@[simp] theorem State.nextTurn_w (s : State) :
    s.nextTurn.w = s.w := rfl
@[simp] theorem State.nextTurn_rowByte (s : State) (j : Nat) :
    s.nextTurn.rowByte j = s.rowByte j := rfl
@[simp] theorem State.nextTurn_pixel (s : State) (i : Nat) :
    s.nextTurn.pixel i = s.pixel i := rfl
@[simp] theorem State.nextTurn_palEntry (s : State) (k : Nat) :
    s.nextTurn.palEntry k = s.palEntry k := rfl
@[simp] theorem State.nextTurn_valid (s : State) (k : Nat) :
    s.nextTurn.valid k = s.valid k := rfl
@[simp] theorem State.nextTurn_irq (s : State) :
    s.nextTurn.irq = s.irq := rfl

/-! ### recordError: only ERR and ERRCODE -/

@[simp] theorem State.recordError_cmd (s : State) (c : ErrCode) : (s.recordError c).cmd = s.cmd := by
  unfold State.recordError; split <;> rfl
@[simp] theorem State.recordError_wSnap (s : State) (c : ErrCode) : (s.recordError c).wSnap = s.wSnap := by
  unfold State.recordError; split <;> rfl
@[simp] theorem State.recordError_busy (s : State) (c : ErrCode) : (s.recordError c).busy = s.busy := by
  unfold State.recordError; split <;> rfl
@[simp] theorem State.recordError_done (s : State) (c : ErrCode) : (s.recordError c).done = s.done := by
  unfold State.recordError; split <;> rfl
@[simp] theorem State.recordError_ieDone (s : State) (c : ErrCode) : (s.recordError c).ieDone = s.ieDone := by
  unfold State.recordError; split <;> rfl
@[simp] theorem State.recordError_ieErr (s : State) (c : ErrCode) : (s.recordError c).ieErr = s.ieErr := by
  unfold State.recordError; split <;> rfl
@[simp] theorem State.recordError_width (s : State) (c : ErrCode) : (s.recordError c).width = s.width := by
  unfold State.recordError; split <;> rfl
@[simp] theorem State.recordError_rowData (s : State) (c : ErrCode) : (s.recordError c).rowData = s.rowData := by
  unfold State.recordError; split <;> rfl
@[simp] theorem State.recordError_rowPad (s : State) (c : ErrCode) : (s.recordError c).rowPad = s.rowPad := by
  unfold State.recordError; split <;> rfl
@[simp] theorem State.recordError_rowStride (s : State) (c : ErrCode) : (s.recordError c).rowStride = s.rowStride := by
  unfold State.recordError; split <;> rfl
@[simp] theorem State.recordError_pv (s : State) (c : ErrCode) : (s.recordError c).pv = s.pv := by
  unfold State.recordError; split <;> rfl
@[simp] theorem State.recordError_pal (s : State) (c : ErrCode) : (s.recordError c).pal = s.pal := by
  unfold State.recordError; split <;> rfl
@[simp] theorem State.recordError_rowbuf (s : State) (c : ErrCode) : (s.recordError c).rowbuf = s.rowbuf := by
  unfold State.recordError; split <;> rfl
@[simp] theorem State.recordError_pixbuf (s : State) (c : ErrCode) : (s.recordError c).pixbuf = s.pixbuf := by
  unfold State.recordError; split <;> rfl
@[simp] theorem State.recordError_resets (s : State) (c : ErrCode) : (s.recordError c).resets = s.resets := by
  unfold State.recordError; split <;> rfl
@[simp] theorem State.recordError_env (s : State) (c : ErrCode) : (s.recordError c).env = s.env := by
  unfold State.recordError; split <;> rfl
@[simp] theorem State.recordError_w (s : State) (c : ErrCode) :
    (s.recordError c).w = s.w := by
  unfold State.recordError; split <;> rfl
@[simp] theorem State.recordError_rowByte (s : State) (c : ErrCode) (j : Nat) :
    (s.recordError c).rowByte j = s.rowByte j := by
  unfold State.recordError; split <;> rfl
@[simp] theorem State.recordError_pixel (s : State) (c : ErrCode) (i : Nat) :
    (s.recordError c).pixel i = s.pixel i := by
  unfold State.recordError; split <;> rfl
@[simp] theorem State.recordError_palEntry (s : State) (c : ErrCode) (k : Nat) :
    (s.recordError c).palEntry k = s.palEntry k := by
  unfold State.recordError; split <;> rfl
@[simp] theorem State.recordError_valid (s : State) (c : ErrCode) (k : Nat) :
    (s.recordError c).valid k = s.valid k := by
  unfold State.recordError; split <;> rfl

@[simp] theorem State.recordError_err (s : State) (c : ErrCode) : (s.recordError c).err = true := by
  unfold State.recordError; split
  · assumption
  · rfl

@[simp] theorem State.recordError_errCode (s : State) (c : ErrCode) :
    (s.recordError c).errCode = if s.err then s.errCode else c := by
  unfold State.recordError; split <;> rfl

end Sys2Proof.Machine
end

