-- ==== Sys2Proof/Laws/Ops.lean ====
section
/-! SUPPORT. What each shared operation of Ops.lean does, said through the machine's reads: the memory writes, the
valid flags, the geometry registers, and the work of the row commands in each of their cases. -/

namespace Sys2Proof.Machine

/-! ### Writes of CMD, STATUS and CTRL, case by case -/

theorem writeCmd_idle {s : State} (v : Word) (h : s.busy = false) : s.writeCmd v = s.acceptCommand v := by
  simp [State.writeCmd, h]

theorem writeCmd_busy {s : State} (v : Word) (h : s.busy = true) : s.writeCmd v = s.recordError .cmdOverrun :=
  if_pos h

theorem writeCtrl_set (s : State) {v : Word} (h : v.getLsbD 31 = true) : s.writeCtrl v = s.softReset := if_pos h

theorem writeCtrl_clear (s : State) {v : Word} (h : v.getLsbD 31 = false) :
    s.writeCtrl v = { s with ieDone := v.getLsbD 0, ieErr := v.getLsbD 1 } := if_neg (by rw [h]; decide)

theorem clearStatus_done_keep (s : State) {v : Word} (h : v.getLsbD 1 = false) : (s.clearStatus v).done = s.done :=
  if_neg (by rw [h]; decide)

theorem clearStatus_done_clear (s : State) {v : Word} (h : v.getLsbD 1 = true) : (s.clearStatus v).done = false :=
  if_pos h

theorem clearStatus_err_keep (s : State) {v : Word} (h : v.getLsbD 2 = false) :
    (s.clearStatus v).err = s.err ∧ (s.clearStatus v).errCode = s.errCode :=
  ⟨if_neg (by rw [h]; decide), if_neg (by rw [h]; decide)⟩

theorem clearStatus_err_clear (s : State) {v : Word} (h : v.getLsbD 2 = true) :
    (s.clearStatus v).err = false ∧ (s.clearStatus v).errCode = .noError := ⟨if_pos h, if_pos h⟩

/-! ### Reads after memory writes -/

theorem rowByte_writeRowFrom (s : State) (j : Nat) (bs : List Byte) (i : Nat) :
    (s.writeRowFrom j bs).rowByte i =
      if j ≤ i ∧ i < j + bs.length then bs[i - j]?.getD 0 else s.rowByte i := by
  simp only [State.rowByte, State.writeRowFrom_rowbuf, State.writeRowFrom_resets, Memory.read_writeSeq]
  split
  · next h =>
    obtain ⟨b, hb⟩ : ∃ b, bs[i - j]? = some b := ⟨_, List.getElem?_eq_getElem (by omega)⟩
    simp [hb]
  · rfl

theorem pixel_writePixels (s : State) (ps : List Pixel) (i : Nat) :
    (s.writePixels ps).pixel i = (ps[i]?).getD (s.pixel i) := by
  simp only [State.pixel, State.writePixels_pixbuf, State.writePixels_resets, Memory.read_writeSeq]
  by_cases h : i < ps.length
  · rw [if_pos ⟨Nat.zero_le i, by omega⟩]
    obtain ⟨p, hp⟩ : ∃ p, ps[i]? = some p := ⟨_, List.getElem?_eq_getElem h⟩
    simp [hp]
  · rw [if_neg (by omega), List.getElem?_eq_none (by omega)]
    rfl

theorem pixel_writePixWord (s : State) (i : Nat) (v : Word) (j : Nat) :
    (s.writePixWord i v).pixel j = if i = j then pixelOfBits (v.extractLsb' 0 24) else s.pixel j := by
  simp only [State.pixel, State.writePixWord_pixbuf, State.writePixWord_resets, Memory.read_write]
  split <;> rfl

theorem palEntry_writePalWord (s : State) (k : Nat) (v : Word) (j : Nat) :
    (s.writePalWord k v).palEntry j = if k = j then palEntryOfWord v else s.palEntry j := by
  simp only [State.palEntry, State.writePalWord_pal, State.writePalWord_resets, Memory.read_write]
  split <;> rfl

theorem palEntry_writePalette (s : State) (es : List PalEntry) (k : Nat) :
    (s.writePalette es).palEntry k = (es[k]?).getD (s.palEntry k) := by
  simp only [State.palEntry, State.writePalette_pal, State.writePalette_resets, Memory.read_writeSeq]
  by_cases h : k < es.length
  · rw [if_pos ⟨Nat.zero_le k, by omega⟩]
    obtain ⟨e, he⟩ : ∃ e, es[k]? = some e := ⟨_, List.getElem?_eq_getElem h⟩
    simp [he]
  · rw [if_neg (by omega), List.getElem?_eq_none (by omega)]
    rfl

theorem clearedEntries_length : clearedEntries.length = 256 := List.length_replicate

theorem palEntry_clearPalette (s : State) (k : Nat) :
    s.clearPalette.palEntry k = if k < 256 then { b := 0, g := 0, r := 0, rsv := 0 } else s.palEntry k := by
  simp only [State.palEntry, State.clearPalette_pal, State.clearPalette_resets, Memory.read_writeSeq,
    clearedEntries_length]
  by_cases h : k < 256
  · rw [if_pos ⟨Nat.zero_le k, by omega⟩, if_pos h]
    unfold clearedEntries
    rw [Nat.sub_zero, List.getElem?_replicate, if_pos h]
    rfl
  · rw [if_neg (by omega), if_neg h]

/-! ### Valid flags -/

theorem validBelow_getLsbD {n : Nat} (hn : n ≤ 256) (k : Nat) : (validBelow n).getLsbD k = decide (k < n) := by
  unfold validBelow
  rw [BitVec.getLsbD_ofNat, Nat.testBit_two_pow_sub_one]
  by_cases h : k < n
  · simp [h, show k < 256 by omega]
  · simp [h]

theorem valid_writePalette (s : State) (es : List PalEntry) (h : es.length ≤ 256) (k : Nat) :
    (s.writePalette es).valid k = (s.valid k || decide (k < es.length)) := by
  simp only [State.valid, State.writePalette_pv, BitVec.getLsbD_or, validBelow_getLsbD h]

theorem valid_writePalWord (s : State) (k : Nat) (v : Word) (j : Nat) :
    (s.writePalWord k v).valid j = (s.valid j || decide (j < 256 ∧ k = j)) := by
  simp only [State.valid, State.writePalWord_pv, BitVec.getLsbD_or, BitVec.getLsbD_twoPow]
  by_cases hkj : k = j
  · subst hkj; by_cases h : k < 256 <;> simp [h]
  · simp [hkj]

theorem valid_lt {s : State} {k : Nat} (h : s.valid k = true) : k < 256 := BitVec.lt_of_getLsbD h

@[simp] theorem valid_clearPalette (s : State) (k : Nat) : s.clearPalette.valid k = false := BitVec.getLsbD_zero

@[simp] theorem valid_softReset (s : State) (k : Nat) : s.softReset.valid k = false := BitVec.getLsbD_zero

@[simp] theorem valid_hardReset (s : State) (k : Nat) : s.hardReset.valid k = false := BitVec.getLsbD_zero

/-! ### Geometry: nothing wraps while W ≤ MAX_WIDTH -/

theorem setGeometry_rowData_toNat {s : State} {bc : BitCount} (h : s.w ≤ maxWidth) :
    (s.setGeometry bc).rowData.toNat = rowDataLen bc s.w := by
  have h1 := rowDataLen_le bc s.w
  have h2 := maxWidth_le
  rw [State.setGeometry_rowData, BitVec.toNat_ofNat]; omega

theorem setGeometry_rowPad_toNat (s : State) (bc : BitCount) :
    (s.setGeometry bc).rowPad.toNat = rowPadLen bc s.w := by
  have h1 := rowPadLen_lt bc s.w
  rw [State.setGeometry_rowPad, BitVec.toNat_ofNat]; omega

theorem setGeometry_rowStride_toNat {s : State} {bc : BitCount} (h : s.w ≤ maxWidth) :
    (s.setGeometry bc).rowStride.toNat = rowStrideLen bc s.w := by
  have h1 := rowStrideLen_le bc s.w
  have h2 := maxWidth_le
  rw [State.setGeometry_rowStride, BitVec.toNat_ofNat]; omega

/-! ### Row commands -/

theorem rowCommand_wide {s : State} (bc : BitCount) (work : State → State) (h : maxWidth < s.w) :
    s.rowCommand bc work = s.finishError .widthRange := if_pos h

theorem rowCommand_ok {s : State} (bc : BitCount) (work : State → State) (h : s.w ≤ maxWidth) :
    s.rowCommand bc work = (work (s.setGeometry bc)).finish := if_neg (by omega)

/-- An UNPACK through the palette whose every index is valid writes every pixel. -/
theorem unpackIndexed_ok {s : State} {index : State → Nat → Byte}
    (h : ∀ x, x < s.w → s.valid (index s x).toNat = true) :
    s.unpackIndexed index =
      s.writePixels ((List.range s.w).map fun x => (s.palEntry (index s x).toNat).colour) := by
  unfold State.unpackIndexed
  rw [forPixels_of_ok fun x hx => lookupUnpack_valid (h x hx)]

/-- An UNPACK through the palette that meets an invalid index records PAL_INVALID and does nothing else. -/
theorem unpackIndexed_invalid {s : State} {index : State → Nat → Byte}
    (h : ∃ x, x < s.w ∧ s.valid (index s x).toNat = false) :
    s.unpackIndexed index = s.recordError .palInvalid := by
  unfold State.unpackIndexed
  obtain ⟨x, hx, hv⟩ := h
  rw [forPixels_of_error ⟨x, _, hx, lookupUnpack_invalid hv⟩ fun y e _ he => (lookupUnpack_error he).1]

/-- The two ways an UNPACK through the palette ends. -/
theorem unpackIndexed_cases (s : State) (index : State → Nat → Byte) :
    ((∀ x, x < s.w → s.valid (index s x).toNat = true) ∧ s.unpackIndexed index =
      s.writePixels ((List.range s.w).map fun x => (s.palEntry (index s x).toNat).colour)) ∨
    ((∃ x, x < s.w ∧ s.valid (index s x).toNat = false) ∧ s.unpackIndexed index = s.recordError .palInvalid) := by
  by_cases h : ∀ x, x < s.w → s.valid (index s x).toNat = true
  · exact .inl ⟨h, unpackIndexed_ok h⟩
  · have h' : ∃ x, x < s.w ∧ s.valid (index s x).toNat = false := by
      push Not at h
      obtain ⟨x, hx, hv⟩ := h
      exact ⟨x, hx, by simpa using hv⟩
    exact .inr ⟨h', unpackIndexed_invalid h'⟩

/-- Reading back the pixels an UNPACK writes. -/
theorem pixel_writePixels_range (s : State) (n : Nat) (p : Nat → Pixel) (i : Nat) :
    (s.writePixels ((List.range n).map p)).pixel i = if i < n then p i else s.pixel i := by
  rw [pixel_writePixels]
  by_cases h : i < n
  · rw [if_pos h, List.getElem?_map, List.getElem?_range h]; rfl
  · rw [if_neg h, List.getElem?_eq_none (by simpa using h)]; rfl

/-- A PACK through the palette: either every colour has its lowest valid index and the row is written, or some colour
has none, PAL_NOMATCH is recorded, and nothing else is done (41_pack.md R160 to R162). -/
theorem packIndexed_cases (s : State) (bc : BitCount)
    (byteAt : Nat → List Byte → Nat → Byte) :
    (∃ idx : List Byte, idx.length = s.w ∧
      (∀ x, x < s.w → lookupPack s bc (s.pixel x) = .ok (idxAt idx x)) ∧
      s.packIndexed bc byteAt = s.writeStoredRow bc ((List.range (rowDataLen bc s.w)).map (byteAt s.w idx))) ∨
    ((∃ x, x < s.w ∧ ∀ k, k < 2 ^ bc.toNat → s.valid k = true → (s.palEntry k).colour ≠ s.pixel x) ∧
      s.packIndexed bc byteAt = s.recordError .palNoMatch) := by
  unfold State.packIndexed
  cases hr : forPixels (fun x => lookupPack s bc (s.pixel x)) s.w with
  | ok idx =>
    refine .inl ⟨idx, (forPixels_ok hr).1, fun x hx => ?_, rfl⟩
    obtain ⟨v, hv, hl⟩ := (forPixels_ok hr).2 x hx
    rw [idxAt_of_getElem? hv]; exact hl
  | error e =>
    obtain ⟨x, hx, hl, _⟩ := forPixels_error hr
    obtain ⟨he, hno⟩ := lookupPack_error hl
    subst he
    exact .inr ⟨⟨x, hx, hno⟩, rfl⟩

/-- Reading back a stored row written by a PACK: the data bytes, the zero padding, and the bytes beyond it as they
were (41_pack.md R161). -/
theorem rowByte_writeStoredRow (s : State) (bc : BitCount) (data : List Byte)
    (hlen : data.length = rowDataLen bc s.w) (i : Nat) :
    (s.writeStoredRow bc data).rowByte i =
      if i < rowDataLen bc s.w then data[i]?.getD 0
      else if i < rowStrideLen bc s.w then 0 else s.rowByte i := by
  unfold State.writeStoredRow
  rw [rowByte_writeRowFrom, List.length_append, List.length_replicate, hlen, rowStrideLen_eq]
  by_cases h1 : i < rowDataLen bc s.w
  · rw [if_pos ⟨Nat.zero_le i, by omega⟩, if_pos h1, Nat.sub_zero, List.getElem?_append_left (by omega)]
  · rw [if_neg h1]
    by_cases h2 : i < rowDataLen bc s.w + rowPadLen bc s.w
    · rw [if_pos ⟨Nat.zero_le i, by omega⟩, if_pos h2, Nat.sub_zero, List.getElem?_append_right (by omega),
        List.getElem?_replicate, if_pos (by omega)]
      rfl
    · rw [if_neg (by omega), if_neg h2]

theorem rowByte_writeStoredRow_map (s : State) (bc : BitCount) (f : Nat → Byte) (i : Nat) :
    (s.writeStoredRow bc ((List.range (rowDataLen bc s.w)).map f)).rowByte i =
      if i < rowDataLen bc s.w then f i else if i < rowStrideLen bc s.w then 0 else s.rowByte i := by
  rw [rowByte_writeStoredRow s bc _ (by simp)]
  by_cases h : i < rowDataLen bc s.w
  · rw [if_pos h, if_pos h, List.getElem?_map, List.getElem?_range h]; rfl
  · rw [if_neg h, if_neg h]

/-- The bytes of a row of pixels at three bytes each. -/
theorem flatMap_tripleOf (p : Nat → Pixel) (n : Nat) :
    ((List.range n).flatMap fun x => tripleOf (p x)).length = 3 * n ∧
    ∀ x, x < n →
      ((List.range n).flatMap fun x => tripleOf (p x))[3 * x]? = some (p x).b ∧
      ((List.range n).flatMap fun x => tripleOf (p x))[3 * x + 1]? = some (p x).g ∧
      ((List.range n).flatMap fun x => tripleOf (p x))[3 * x + 2]? = some (p x).r := by
  induction n with
  | zero => simp
  | succ n ih =>
    obtain ⟨hlen, hall⟩ := ih
    rw [List.range_succ, List.flatMap_append]
    refine ⟨by simp [tripleOf]; omega, fun x hx => ?_⟩
    by_cases hxn : x = n
    · subst hxn
      simp only [List.flatMap_cons, List.flatMap_nil, List.append_nil]
      refine ⟨?_, ?_, ?_⟩ <;> rw [List.getElem?_append_right (by omega), hlen] <;> simp [tripleOf]
    · obtain ⟨h0, h1, h2⟩ := hall x (by omega)
      refine ⟨?_, ?_, ?_⟩ <;> rw [List.getElem?_append_left (by omega)] <;> assumption

/-- The bytes of a row of pixels at four bytes each. -/
theorem flatMap_quadOf (p : Nat → Pixel) (n : Nat) :
    ((List.range n).flatMap fun x => quadOf (p x)).length = 4 * n ∧
    ∀ x, x < n →
      ((List.range n).flatMap fun x => quadOf (p x))[4 * x]? = some (p x).b ∧
      ((List.range n).flatMap fun x => quadOf (p x))[4 * x + 1]? = some (p x).g ∧
      ((List.range n).flatMap fun x => quadOf (p x))[4 * x + 2]? = some (p x).r ∧
      ((List.range n).flatMap fun x => quadOf (p x))[4 * x + 3]? = some 0 := by
  induction n with
  | zero => simp
  | succ n ih =>
    obtain ⟨hlen, hall⟩ := ih
    rw [List.range_succ, List.flatMap_append]
    refine ⟨by simp [quadOf]; omega, fun x hx => ?_⟩
    by_cases hxn : x = n
    · subst hxn
      simp only [List.flatMap_cons, List.flatMap_nil, List.append_nil]
      refine ⟨?_, ?_, ?_, ?_⟩ <;> rw [List.getElem?_append_right (by omega), hlen] <;> simp [quadOf]
    · obtain ⟨h0, h1, h2, h3⟩ := hall x (by omega)
      refine ⟨?_, ?_, ?_, ?_⟩ <;> rw [List.getElem?_append_left (by omega)] <;> assumption

end Sys2Proof.Machine
end

