-- ==== Sys2Proof/Laws/Invariant.lean ====
section
/-! SUPPORT. Each operation of Ops.lean keeps the invariant of Safety.lean, under the bounds that its callers give
it. -/

namespace Sys2Proof.Machine

/-- The invariant is about the memories, the valid flags, the recorded error and the geometry registers alone. -/
theorem State.Inv.of_same {s t : State} (h : s.Inv) (h1 : t.rowbuf = s.rowbuf) (h2 : t.pixbuf = s.pixbuf)
    (h3 : t.pal = s.pal) (h4 : t.pv = s.pv) (h5 : t.err = s.err) (h6 : t.errCode = s.errCode)
    (h7 : t.rowData = s.rowData) (h8 : t.rowPad = s.rowPad) (h9 : t.rowStride = s.rowStride) : t.Inv := by
  have hv : ∀ k, t.valid k = s.valid k := fun k => by unfold State.valid; rw [h4]
  constructor
  · rw [h1]; exact h.rowbuf_wf
  · rw [h2]; exact h.pixbuf_wf
  · rw [h3]; exact h.pal_wf
  · rw [h1]; exact h.rowbuf_bound
  · rw [h2]; exact h.pixbuf_bound
  · rw [h3]; exact h.pal_bound
  · intro k hk; rw [h3]; exact h.valid_written k (by rw [← hv]; exact hk)
  · rw [h5, h6]; exact h.errCode_iff
  · rw [h8]; exact h.rowPad_lt
  · rw [h7, h8, h9]; exact h.rowStride_sum
  · rw [h9]; exact h.rowStride_aligned
  · rw [h9]; exact h.rowStride_fits

theorem State.Inv.recordError {s : State} (h : s.Inv) {c : ErrCode} (hc : c ≠ .noError) : (s.recordError c).Inv := by
  unfold State.recordError
  split
  · exact h
  · exact { h with errCode_iff := by simp [hc] }

theorem State.Inv.finish {s : State} (h : s.Inv) : s.finish.Inv := h.of_same rfl rfl rfl rfl rfl rfl rfl rfl rfl

theorem State.Inv.finishError {s : State} (h : s.Inv) {c : ErrCode} (hc : c ≠ .noError) : (s.finishError c).Inv :=
  (h.recordError hc).finish

theorem State.Inv.clearStatus {s : State} (h : s.Inv) (v : Word) : (s.clearStatus v).Inv := by
  cases hv : v.getLsbD 2 with
  | true => exact { h with errCode_iff := by rw [(clearStatus_err_clear s hv).1, (clearStatus_err_clear s hv).2]; decide }
  | false =>
    exact { h with
      errCode_iff := by rw [(clearStatus_err_keep s hv).1, (clearStatus_err_keep s hv).2]; exact h.errCode_iff }

theorem State.Inv.softReset {s : State} (h : s.Inv) : s.softReset.Inv where
  rowbuf_wf := h.rowbuf_wf
  pixbuf_wf := h.pixbuf_wf
  pal_wf := h.pal_wf
  rowbuf_bound := h.rowbuf_bound
  pixbuf_bound := h.pixbuf_bound
  pal_bound := h.pal_bound
  valid_written k hk := by simp at hk
  errCode_iff := by simp
  rowPad_lt := by simp
  rowStride_sum := by simp
  rowStride_aligned := by simp
  rowStride_fits := by simp

theorem State.inv_hardReset (s : State) : s.hardReset.Inv where
  rowbuf_wf := Memory.wf_nil
  pixbuf_wf := Memory.wf_nil
  pal_wf := Memory.wf_nil
  rowbuf_bound _ _ := rfl
  pixbuf_bound _ _ := rfl
  pal_bound _ _ := rfl
  valid_written k hk := by simp at hk
  errCode_iff := by simp
  rowPad_lt := by simp
  rowStride_sum := by simp
  rowStride_aligned := by simp
  rowStride_fits := by simp

theorem State.Inv.setGeometry {s : State} (h : s.Inv) (bc : BitCount) (hw : s.w ≤ maxWidth) :
    (s.setGeometry bc).Inv :=
  { h with
    rowPad_lt := by rw [setGeometry_rowPad_toNat]; exact rowPadLen_lt bc s.w
    rowStride_sum := by
      rw [setGeometry_rowStride_toNat hw, setGeometry_rowData_toNat hw, setGeometry_rowPad_toNat]
      exact rowStrideLen_eq bc s.w
    rowStride_aligned := by rw [setGeometry_rowStride_toNat hw]; exact rowStrideLen_mod_four bc s.w
    rowStride_fits := by rw [setGeometry_rowStride_toNat hw]; have := rowStrideLen_le bc s.w; omega }

theorem State.Inv.writePixels {s : State} (h : s.Inv) (ps : List Pixel) (hl : ps.length ≤ maxWidth) :
    (s.writePixels ps).Inv :=
  { h with
    pixbuf_wf := Memory.wf_writeSeq _ _ _ h.pixbuf_wf
    pixbuf_bound := fun i hi => by
      rw [State.writePixels_pixbuf, Memory.read_writeSeq, if_neg (by omega)]; exact h.pixbuf_bound i hi }

theorem State.Inv.writePixWord {s : State} (h : s.Inv) (i : Nat) (v : Word) (hi : i < maxWidth) :
    (s.writePixWord i v).Inv :=
  { h with
    pixbuf_wf := Memory.wf_write _ _ _ h.pixbuf_wf
    pixbuf_bound := fun j hj => by
      rw [State.writePixWord_pixbuf, Memory.read_write, if_neg (by omega)]; exact h.pixbuf_bound j hj }

theorem State.Inv.writeRowFrom {s : State} (h : s.Inv) (j : Nat) (bs : List Byte)
    (hl : j + bs.length ≤ 4 * maxWidth) : (s.writeRowFrom j bs).Inv :=
  { h with
    rowbuf_wf := Memory.wf_writeSeq _ _ _ h.rowbuf_wf
    rowbuf_bound := fun i hi => by
      rw [State.writeRowFrom_rowbuf, Memory.read_writeSeq, if_neg (by omega)]; exact h.rowbuf_bound i hi }

theorem State.Inv.writeRowWord {s : State} (h : s.Inv) (k : Nat) (v : Word) (hk : k < maxWidth) :
    (s.writeRowWord k v).Inv := h.writeRowFrom _ _ (by simp; omega)

theorem State.Inv.writeStoredRow {s : State} (h : s.Inv) (bc : BitCount) (data : List Byte) (hw : s.w ≤ maxWidth)
    (hl : data.length = rowDataLen bc s.w) : (s.writeStoredRow bc data).Inv := by
  refine h.writeRowFrom _ _ ?_
  have h1 := rowStrideLen_le bc s.w
  have h2 := rowStrideLen_eq bc s.w
  simp only [List.length_append, List.length_replicate]
  omega

theorem State.Inv.writePalette {s : State} (h : s.Inv) (es : List PalEntry) (hl : es.length ≤ 256) :
    (s.writePalette es).Inv :=
  { h with
    pal_wf := Memory.wf_writeSeq _ _ _ h.pal_wf
    pal_bound := fun k hk => by
      rw [State.writePalette_pal, Memory.read_writeSeq, if_neg (by omega)]; exact h.pal_bound k hk
    valid_written := fun k hk => by
      rw [valid_writePalette s es hl] at hk
      rw [State.writePalette_pal, Memory.read_writeSeq]
      by_cases hkl : k < es.length
      · rw [if_pos ⟨Nat.zero_le k, by omega⟩, Nat.sub_zero, List.getElem?_eq_getElem hkl]; rfl
      · rw [if_neg (by omega)]; exact h.valid_written k (by simpa [hkl] using hk) }

theorem State.Inv.writePalWord {s : State} (h : s.Inv) (k : Nat) (v : Word) (hk : k < 256) :
    (s.writePalWord k v).Inv :=
  { h with
    pal_wf := Memory.wf_write _ _ _ h.pal_wf
    pal_bound := fun j hj => by
      rw [State.writePalWord_pal, Memory.read_write, if_neg (by omega)]; exact h.pal_bound j hj
    valid_written := fun j hj => by
      rw [valid_writePalWord] at hj
      rw [State.writePalWord_pal, Memory.read_write]
      by_cases hkj : k = j
      · rw [if_pos hkj]; rfl
      · rw [if_neg hkj]; exact h.valid_written j (by simpa [hkj] using hj) }

theorem State.Inv.clearPalette {s : State} (h : s.Inv) : s.clearPalette.Inv where
  rowbuf_wf := h.rowbuf_wf
  pixbuf_wf := h.pixbuf_wf
  pal_wf := by rw [State.clearPalette_pal]; exact Memory.wf_writeSeq _ _ _ h.pal_wf
  rowbuf_bound := h.rowbuf_bound
  pixbuf_bound := h.pixbuf_bound
  pal_bound k hk := by
    rw [State.clearPalette_pal, Memory.read_writeSeq, clearedEntries_length, if_neg (by omega)]
    exact h.pal_bound k hk
  valid_written k hk := by simp at hk
  errCode_iff := h.errCode_iff
  rowPad_lt := h.rowPad_lt
  rowStride_sum := h.rowStride_sum
  rowStride_aligned := h.rowStride_aligned
  rowStride_fits := h.rowStride_fits

end Sys2Proof.Machine
end

