-- ==== Sys2Proof/Laws/PerInstr.lean ====
section
/-! SUPPORT. The families of statements made command by command: the opcode word is BC above OP and nothing else
(30_encoding.md R106), and the command's fields are legal (R105). -/

namespace Sys2Proof.Laws

/-- The word of a command is `(BC << 8) | OP` (30_encoding.md R106). -/
def OpcodeWord.Statement (i : Instr) : Prop := (encode i).toNat = i.bc.toNat * 256 + i.op.toNat

/-- The fields of a command pass every format and bit-count check (30_encoding.md R103, R105). -/
def LegalFields.Statement (i : Instr) : Prop := i.wf = true ∧ fieldsOf (encode i) = i.fields

theorem OpcodeWord.nop : OpcodeWord.Statement .nop := by unfold OpcodeWord.Statement; decide
theorem OpcodeWord.unpack1 : OpcodeWord.Statement .unpack1 := by unfold OpcodeWord.Statement; decide
theorem OpcodeWord.unpack4 : OpcodeWord.Statement .unpack4 := by unfold OpcodeWord.Statement; decide
theorem OpcodeWord.unpack8 : OpcodeWord.Statement .unpack8 := by unfold OpcodeWord.Statement; decide
theorem OpcodeWord.unpack24 : OpcodeWord.Statement .unpack24 := by unfold OpcodeWord.Statement; decide
theorem OpcodeWord.unpack32 : OpcodeWord.Statement .unpack32 := by unfold OpcodeWord.Statement; decide
theorem OpcodeWord.pack1 : OpcodeWord.Statement .pack1 := by unfold OpcodeWord.Statement; decide
theorem OpcodeWord.pack4 : OpcodeWord.Statement .pack4 := by unfold OpcodeWord.Statement; decide
theorem OpcodeWord.pack8 : OpcodeWord.Statement .pack8 := by unfold OpcodeWord.Statement; decide
theorem OpcodeWord.pack24 : OpcodeWord.Statement .pack24 := by unfold OpcodeWord.Statement; decide
theorem OpcodeWord.pack32 : OpcodeWord.Statement .pack32 := by unfold OpcodeWord.Statement; decide
theorem OpcodeWord.size1 : OpcodeWord.Statement .size1 := by unfold OpcodeWord.Statement; decide
theorem OpcodeWord.size4 : OpcodeWord.Statement .size4 := by unfold OpcodeWord.Statement; decide
theorem OpcodeWord.size8 : OpcodeWord.Statement .size8 := by unfold OpcodeWord.Statement; decide
theorem OpcodeWord.size24 : OpcodeWord.Statement .size24 := by unfold OpcodeWord.Statement; decide
theorem OpcodeWord.size32 : OpcodeWord.Statement .size32 := by unfold OpcodeWord.Statement; decide
theorem OpcodeWord.genramp1 : OpcodeWord.Statement .genramp1 := by unfold OpcodeWord.Statement; decide
theorem OpcodeWord.genramp4 : OpcodeWord.Statement .genramp4 := by unfold OpcodeWord.Statement; decide
theorem OpcodeWord.genramp8 : OpcodeWord.Statement .genramp8 := by unfold OpcodeWord.Statement; decide
theorem OpcodeWord.palclr : OpcodeWord.Statement .palclr := by unfold OpcodeWord.Statement; decide

theorem LegalFields.nop : LegalFields.Statement .nop := by unfold LegalFields.Statement; decide
theorem LegalFields.unpack1 : LegalFields.Statement .unpack1 := by unfold LegalFields.Statement; decide
theorem LegalFields.unpack4 : LegalFields.Statement .unpack4 := by unfold LegalFields.Statement; decide
theorem LegalFields.unpack8 : LegalFields.Statement .unpack8 := by unfold LegalFields.Statement; decide
theorem LegalFields.unpack24 : LegalFields.Statement .unpack24 := by unfold LegalFields.Statement; decide
theorem LegalFields.unpack32 : LegalFields.Statement .unpack32 := by unfold LegalFields.Statement; decide
theorem LegalFields.pack1 : LegalFields.Statement .pack1 := by unfold LegalFields.Statement; decide
theorem LegalFields.pack4 : LegalFields.Statement .pack4 := by unfold LegalFields.Statement; decide
theorem LegalFields.pack8 : LegalFields.Statement .pack8 := by unfold LegalFields.Statement; decide
theorem LegalFields.pack24 : LegalFields.Statement .pack24 := by unfold LegalFields.Statement; decide
theorem LegalFields.pack32 : LegalFields.Statement .pack32 := by unfold LegalFields.Statement; decide
theorem LegalFields.size1 : LegalFields.Statement .size1 := by unfold LegalFields.Statement; decide
theorem LegalFields.size4 : LegalFields.Statement .size4 := by unfold LegalFields.Statement; decide
theorem LegalFields.size8 : LegalFields.Statement .size8 := by unfold LegalFields.Statement; decide
theorem LegalFields.size24 : LegalFields.Statement .size24 := by unfold LegalFields.Statement; decide
theorem LegalFields.size32 : LegalFields.Statement .size32 := by unfold LegalFields.Statement; decide
theorem LegalFields.genramp1 : LegalFields.Statement .genramp1 := by unfold LegalFields.Statement; decide
theorem LegalFields.genramp4 : LegalFields.Statement .genramp4 := by unfold LegalFields.Statement; decide
theorem LegalFields.genramp8 : LegalFields.Statement .genramp8 := by unfold LegalFields.Statement; decide
theorem LegalFields.palclr : LegalFields.Statement .palclr := by unfold LegalFields.Statement; decide

end Sys2Proof.Laws
end

