-- ==== Sys2Proof/Laws/Step.lean ====
section
/-! SUPPORT. Everything a step can do, said once: the four kinds of step, the two ways the ENGINE's step ends, the
three kinds of host step; and what every command leaves alone. -/

namespace Sys2Proof.Machine

/-! ### Decoding -/

/-- An illegal word completes with BAD_OP or UNSUPPORTED, never another code (30_encoding.md R107). -/
theorem decode_illegal_code {w : Word} {c : ErrCode} (h : decode w = .illegal c) : c = .badOp ∨ c = .unsupported := by
  have hu : ∀ bc f, (∀ b c, f b = Decoded.illegal c → c = .unsupported) → withBitCount bc f = .illegal c →
      c = .unsupported := by
    intro bc f hf h
    unfold withBitCount at h
    split at h
    · exact hf _ _ h
    · cases h; rfl
  have hb : ∀ bc i, withoutBitCount bc i = .illegal c → c = .badOp := by
    intro bc i h
    unfold withoutBitCount at h
    split at h
    · cases h
    · cases h; rfl
  unfold decode decodeFields at h
  split at h
  · cases h; exact .inl rfl
  · split at h
    · exact .inl (hb _ _ h)
    · exact .inr (hu _ _ (fun b c hb => by cases b <;> cases hb) h)
    · exact .inr (hu _ _ (fun b c hb => by cases b <;> cases hb) h)
    · exact .inr (hu _ _ (fun b c hb => by cases b <;> cases hb) h)
    · exact .inr (hu _ _ (fun b c hb => by cases b <;> cases hb <;> rfl) h)
    · exact .inl (hb _ _ h)
    · cases h; exact .inl rfl

/-! ### Commands -/

/-- Every command answers a next state. -/
theorem exec_goes_on (i : Instr) (s : State) : ∃ t, exec i s = .next t := by cases i <;> exact ⟨_, rfl⟩

/-- What a command's work on the buffers leaves alone: every register but the geometry, BUSY and DONE. -/
structure KeepsControl (s t : State) : Prop where
  cmd : t.cmd = s.cmd
  wSnap : t.wSnap = s.wSnap
  ieDone : t.ieDone = s.ieDone
  ieErr : t.ieErr = s.ieErr
  width : t.width = s.width
  resets : t.resets = s.resets
  env : t.env = s.env

theorem KeepsControl.refl (s : State) : KeepsControl s s := ⟨rfl, rfl, rfl, rfl, rfl, rfl, rfl⟩

theorem KeepsControl.trans {s t u : State} (h : KeepsControl s t) (k : KeepsControl t u) : KeepsControl s u :=
  ⟨k.cmd.trans h.cmd, k.wSnap.trans h.wSnap, k.ieDone.trans h.ieDone, k.ieErr.trans h.ieErr, k.width.trans h.width,
    k.resets.trans h.resets, k.env.trans h.env⟩

theorem keepsControl_recordError (s : State) (c : ErrCode) : KeepsControl s (s.recordError c) := by
  constructor <;> simp

theorem keepsControl_finish (s : State) : KeepsControl s s.finish := by constructor <;> simp

theorem keepsControl_unpackIndexed (s : State) (index : State → Nat → Byte) :
    KeepsControl s (s.unpackIndexed index) := by
  rcases unpackIndexed_cases s index with ⟨_, h⟩ | ⟨_, h⟩ <;> rw [h]
  · constructor <;> simp
  · exact keepsControl_recordError _ _

theorem keepsControl_packIndexed (s : State) (bc : BitCount) (byteAt : Nat → List Byte → Nat → Byte) :
    KeepsControl s (s.packIndexed bc byteAt) := by
  rcases packIndexed_cases s bc byteAt with ⟨idx, _, _, h⟩ | ⟨_, h⟩ <;> rw [h]
  · constructor <;> simp
  · exact keepsControl_recordError _ _

theorem keepsControl_rowCommand (s : State) (bc : BitCount) (work : State → State)
    (h : ∀ u, KeepsControl u (work u)) : KeepsControl s (s.rowCommand bc work) := by
  unfold State.rowCommand
  split
  · exact (keepsControl_recordError _ _).trans (keepsControl_finish _)
  · refine KeepsControl.trans (t := s.setGeometry bc) ?_ ((h _).trans (keepsControl_finish _))
    constructor <;> simp

/-- Every command leaves CMD, W_SNAP, CTRL, WIDTH and the environment alone. -/
theorem exec_keepsControl {i : Instr} {s t : State} (h : exec i s = .next t) : KeepsControl s t := by
  have hd : ∀ n u, KeepsControl u (State.unpackDirect n u) := fun n u => by
    unfold State.unpackDirect; constructor <;> simp
  have hp : ∀ bc f u, KeepsControl u (State.packDirect bc f u) := fun bc f u => by
    unfold State.packDirect; constructor <;> simp
  have hr : ∀ bc, KeepsControl s (s.genramp bc).finish := fun bc => by
    unfold State.genramp; constructor <;> simp
  cases i <;> cases h
  case nop => exact keepsControl_finish s
  case palclr => constructor <;> simp
  case genramp1 => exact hr _
  case genramp4 => exact hr _
  case genramp8 => exact hr _
  all_goals
    first
      | exact keepsControl_rowCommand _ _ _ (fun u => keepsControl_unpackIndexed u _)
      | exact keepsControl_rowCommand _ _ _ (fun u => keepsControl_packIndexed u _ _)
      | exact keepsControl_rowCommand _ _ _ (hd _)
      | exact keepsControl_rowCommand _ _ _ (hp _ _)
      | exact keepsControl_rowCommand _ _ _ (fun u => KeepsControl.refl u)

theorem rowCommand_completes (s : State) (bc : BitCount) (work : State → State) :
    (s.rowCommand bc work).busy = false ∧ (s.rowCommand bc work).done = true := by
  unfold State.rowCommand State.finishError
  split <;> exact ⟨rfl, rfl⟩

/-- Every command ends with BUSY 0 and DONE 1 (10_state.md R30). -/
theorem exec_completes {i : Instr} {s t : State} (h : exec i s = .next t) : t.busy = false ∧ t.done = true := by
  cases i <;> cases h <;> first | exact ⟨rfl, rfl⟩ | exact rowCommand_completes _ _ _

/-! ### What a command does to the recorded error -/

/-- The codes that an ENGINE step can record (60_exceptions.md R221). -/
def IsCommandError (c : ErrCode) : Prop := c ≠ .noError ∧ c ≠ .cmdOverrun

/-- A state's recorded error is as it was, or it is what `record_error` of a command's code leaves. -/
def RecordsAtMost (s t : State) : Prop :=
  (t.err = s.err ∧ t.errCode = s.errCode) ∨
    ∃ c, IsCommandError c ∧ t.err = true ∧ t.errCode = if s.err then s.errCode else c

theorem recordsAtMost_recordError (s : State) {c : ErrCode} (h : IsCommandError c) : RecordsAtMost s (s.recordError c) :=
  .inr ⟨c, h, State.recordError_err _ _, State.recordError_errCode _ _⟩

theorem recordsAtMost_rowCommand (s : State) (bc : BitCount) (work : State → State)
    (h : ∀ u, RecordsAtMost u (work u)) : RecordsAtMost s (s.rowCommand bc work) := by
  unfold State.rowCommand
  split
  · exact recordsAtMost_recordError s (by constructor <;> decide)
  · exact h (s.setGeometry bc)

theorem exec_recordsAtMost {i : Instr} {s t : State} (h : exec i s = .next t) : RecordsAtMost s t := by
  have hu : ∀ index u, RecordsAtMost u (State.unpackIndexed index u) := fun index u => by
    rcases unpackIndexed_cases u index with ⟨_, h⟩ | ⟨_, h⟩ <;> rw [h]
    · exact .inl ⟨rfl, rfl⟩
    · exact recordsAtMost_recordError u (by constructor <;> decide)
  have hp : ∀ bc f u, RecordsAtMost u (State.packIndexed bc f u) := fun bc f u => by
    rcases packIndexed_cases u bc f with ⟨_, _, _, h⟩ | ⟨_, h⟩ <;> rw [h]
    · exact .inl ⟨rfl, rfl⟩
    · exact recordsAtMost_recordError u (by constructor <;> decide)
  cases i <;> cases h
  case nop => exact .inl ⟨rfl, rfl⟩
  case palclr => exact .inl ⟨rfl, rfl⟩
  case genramp1 => exact .inl ⟨rfl, rfl⟩
  case genramp4 => exact .inl ⟨rfl, rfl⟩
  case genramp8 => exact .inl ⟨rfl, rfl⟩
  all_goals
    first
      | exact recordsAtMost_rowCommand _ _ _ (hu _)
      | exact recordsAtMost_rowCommand _ _ _ (hp _ _)
      | exact recordsAtMost_rowCommand _ _ _ (fun u => .inl ⟨rfl, rfl⟩)

/-! ### The ENGINE's step -/

/-- The two ways an ENGINE step ends. -/
theorem engineStep_cases {s t : State} (h : s.engineStep = .next t) :
    (∃ i, decode s.cmd = .command i ∧ exec i s = .next t) ∨
    ∃ c, decode s.cmd = .illegal c ∧ (c = .badOp ∨ c = .unsupported) ∧ t = s.finishError c := by
  unfold State.engineStep at h
  split at h
  · next i hi => exact .inl ⟨i, hi, h⟩
  · next c hc => cases h; exact .inr ⟨c, hc, decode_illegal_code hc, rfl⟩

theorem engineStep_goes_on (s : State) : ∃ t, s.engineStep = .next t := by
  unfold State.engineStep
  split
  · exact exec_goes_on _ _
  · exact ⟨_, rfl⟩

theorem engineStep_completes {s t : State} (h : s.engineStep = .next t) : t.busy = false ∧ t.done = true := by
  rcases engineStep_cases h with ⟨i, _, hi⟩ | ⟨c, _, _, rfl⟩
  · exact exec_completes hi
  · exact ⟨rfl, rfl⟩

theorem engineStep_keepsControl {s t : State} (h : s.engineStep = .next t) : KeepsControl s t := by
  rcases engineStep_cases h with ⟨i, _, hi⟩ | ⟨c, _, _, rfl⟩
  · exact exec_keepsControl hi
  · exact (keepsControl_recordError _ _).trans (keepsControl_finish _)

theorem engineStep_recordsAtMost {s t : State} (h : s.engineStep = .next t) : RecordsAtMost s t := by
  rcases engineStep_cases h with ⟨i, _, hi⟩ | ⟨c, _, hc, rfl⟩
  · exact exec_recordsAtMost hi
  · exact recordsAtMost_recordError s (by rcases hc with rfl | rfl <;> constructor <;> decide)

/-! ### The host's step -/

/-- Only a well-formed access reaches anything. -/
theorem target_width {s : State} {off : Offset} {bytes : Nat} {l : Loc} (h : s.target off bytes = some l) :
    bytes = 4 := by
  unfold State.target at h
  split at h
  · cases h
  · next hn => omega

/-- The three kinds of host step: nothing to do; an access that changes nothing of the block; a write that reaches a
location. -/
theorem hostStep_cases (s : State) :
    (s.env.program = [] ∧ s.hostStep = s) ∨ (∃ p r, s.hostStep = s.respond p r) ∨
    ∃ off v rest l, s.env.program = .write off 4 v :: rest ∧ s.target off 4 = some l ∧
      s.hostStep = (s.writeLoc v l).respond rest .writeOk := by
  unfold State.hostStep
  split
  · next h => exact .inl ⟨h, rfl⟩
  · exact .inr (.inl ⟨_, _, rfl⟩)
  · next off bytes v rest h =>
    unfold State.busWrite
    cases ht : s.target off bytes with
    | none => exact .inr (.inl ⟨_, _, rfl⟩)
    | some l =>
      have h4 := target_width ht
      subst h4
      exact .inr (.inr ⟨off, v, rest, l, h, ht, rfl⟩)
  · split <;> exact .inr (.inl ⟨_, _, rfl⟩)

theorem hostStep_read {s : State} {off : Offset} {bytes : Nat} {rest : List HostOp}
    (h : s.env.program = .read off bytes :: rest) : s.hostStep = s.respond rest (s.busRead off bytes) := by
  unfold State.hostStep; rw [h]

theorem hostStep_write {s : State} {off : Offset} {bytes : Nat} {v : Word} {rest : List HostOp}
    (h : s.env.program = .write off bytes v :: rest) :
    s.hostStep = (s.busWrite off bytes v).1.respond rest (s.busWrite off bytes v).2 := by
  unfold State.hostStep; rw [h]

theorem hostStep_poll {s : State} {off : Offset} {mask v : Word} {rest : List HostOp}
    (h : s.env.program = .poll off mask v :: rest) :
    s.hostStep = if (s.busRead off 4).data &&& mask = v then s.respond rest (s.busRead off 4)
      else s.respond (.poll off mask v :: rest) (s.busRead off 4) := by
  unfold State.hostStep; rw [h]

@[simp] theorem target_nextTurn (s : State) (off : Offset) (bytes : Nat) :
    s.nextTurn.target off bytes = s.target off bytes := rfl

@[simp] theorem busRead_nextTurn (s : State) (off : Offset) (bytes : Nat) :
    s.nextTurn.busRead off bytes = s.busRead off bytes := rfl

/-- A window is closed while a command is pending (20_memory.md R70). -/
theorem target_busy {s : State} {off : Offset} {bytes : Nat} {l : Loc} (hb : s.busy = true)
    (h : s.target off bytes = some l) : l.isWindow = false := by
  unfold State.target at h
  split at h
  · cases h
  · split at h
    · cases h
    · next l' _ =>
      rw [hb, Bool.true_and] at h
      split at h
      · cases h
      · next hw => cases h; simpa using hw

/-! ### The step -/

/-- The four kinds of step. -/
theorem step_cases {s t : State} (h : step s = .next t) :
    (s.turn = .host ∧ t = s.nextTurn.hostStep) ∨ (s.turn = .engine ∧ s.busy = false ∧ t = s.nextTurn) ∨
    (s.turn = .engine ∧ s.busy = true ∧ s.nextTurn.engineStep = .next t) ∨
    (s.turn = .reset ∧ t = s.nextTurn.hardReset) := by
  unfold step State.take at h
  cases ht : s.turn with
  | host => rw [ht] at h; cases h; exact .inl ⟨rfl, rfl⟩
  | engine =>
    rw [ht] at h
    by_cases hb : s.busy = true
    · exact .inr (.inr (.inl ⟨rfl, hb, by simpa [hb] using h⟩))
    · simp only [Bool.not_eq_true] at hb
      simp only [State.nextTurn_busy, hb] at h
      cases h
      exact .inr (.inl ⟨rfl, hb, rfl⟩)
  | reset => rw [ht] at h; cases h; exact .inr (.inr (.inr ⟨rfl, rfl⟩))

theorem step_host {s : State} (h : s.turn = .host) : step s = .next s.nextTurn.hostStep := by
  unfold step State.take; rw [h]

theorem step_engine {s : State} (h : s.turn = .engine) (hb : s.busy = true) : step s = s.nextTurn.engineStep := by
  unfold step State.take; rw [h]; simp [hb]

theorem step_engine_idle {s : State} (h : s.turn = .engine) (hb : s.busy = false) : step s = .next s.nextTurn := by
  unfold step State.take; rw [h]; simp [hb]

theorem step_reset {s : State} (h : s.turn = .reset) : step s = .next s.nextTurn.hardReset := by
  unfold step State.take; rw [h]

/-- A host write that reaches a location. -/
theorem step_write {s : State} {off : Offset} {v : Word} {l : Loc} (h : s.turn = .host)
    (hp : s.env.program.head? = some (.write off 4 v)) (ht : s.target off 4 = some l) :
    step s = .next ((s.nextTurn.writeLoc v l).respond s.env.program.tail .writeOk) := by
  obtain ⟨rest, hr⟩ : ∃ rest, s.env.program = .write off 4 v :: rest := by
    cases hq : s.env.program with
    | nil => rw [hq] at hp; cases hp
    | cons o rest => rw [hq] at hp; cases hp; exact ⟨rest, rfl⟩
  have hr' : s.nextTurn.env.program = .write off 4 v :: rest := hr
  rw [step_host h, hostStep_write hr', hr]
  unfold State.busWrite
  rw [target_nextTurn, ht]
  rfl

/-- The step of a placed word is the ENGINE step of that word. -/
theorem step_withFetchWord (s : State) (nbits w : Nat) :
    step (s.withFetchWord nbits w) = (s.acceptCommand (tableWord nbits w)).engineStep := rfl

end Sys2Proof.Machine
end

