-- ==== Sys2Proof/Tests/Slice0.lean ====
section
/-! SUPPORT. The model's own tests: ill-formed terms that the checks refuse, words written out from the spec's
encoding, vectors of 95_test_vectors.md, and for every statement with hypotheses a state that meets them. -/

namespace Sys2Proof.Tests

open Sys2Proof.Machine Sys2Proof.Claims

/-! ### Ill-formed terms are refused -/

/-- 30_encoding.md R103: a reserved bit of RSV1. -/
theorem test_wf_refuses_rsv1 : CmdFields.wf { rsv1 := 1, bc := 1, rsv0 := 0, op := 1 } = false := by decide

/-- 30_encoding.md R103: a reserved bit of RSV0. -/
theorem test_wf_refuses_rsv0 : CmdFields.wf { rsv1 := 0, bc := 1, rsv0 := 8, op := 1 } = false := by decide

/-- 30_encoding.md R101: OP 6 is reserved. -/
theorem test_wf_refuses_op : CmdFields.wf { rsv1 := 0, bc := 0, rsv0 := 0, op := 6 } = false := by decide

/-- 30_encoding.md R105: GENRAMP has no 24-bit form, and NOP no bit count. -/
theorem test_wf_refuses_bc :
    CmdFields.wf { rsv1 := 0, bc := 24, rsv0 := 0, op := 4 } = false ∧
      CmdFields.wf { rsv1 := 0, bc := 1, rsv0 := 0, op := 0 } = false := by decide

/-- 20_memory.md R61, R62, R60: a byte access, a misaligned one, and one outside the register space. -/
theorem test_wf_refuses_accesses :
    HostOp.wf (.read 0x000 1) = false ∧ HostOp.wf (.write 0x00E 4 0) = false ∧ HostOp.wf (.poll 0x30000 0 0) = false := by
  decide

/-! ### Words written out from 30_encoding.md R100 and R106: RSV1, BC, RSV0, OP -/

theorem test_decode_control :
    decode 0b000000000000000000_000000_0000_0000#32 = .command .nop ∧
      decode 0b000000000000000000_000000_0000_0101#32 = .command .palclr ∧
      decode 0b000000000000000000_000001_0000_0100#32 = .command .genramp1 ∧
      decode 0b000000000000000000_000100_0000_0100#32 = .command .genramp4 ∧
      decode 0b000000000000000000_001000_0000_0100#32 = .command .genramp8 := by decide

theorem test_decode_unpack :
    decode 0b000000000000000000_000001_0000_0001#32 = .command .unpack1 ∧
      decode 0b000000000000000000_000100_0000_0001#32 = .command .unpack4 ∧
      decode 0b000000000000000000_001000_0000_0001#32 = .command .unpack8 ∧
      decode 0b000000000000000000_011000_0000_0001#32 = .command .unpack24 ∧
      decode 0b000000000000000000_100000_0000_0001#32 = .command .unpack32 := by decide

theorem test_decode_pack :
    decode 0b000000000000000000_000001_0000_0010#32 = .command .pack1 ∧
      decode 0b000000000000000000_000100_0000_0010#32 = .command .pack4 ∧
      decode 0b000000000000000000_001000_0000_0010#32 = .command .pack8 ∧
      decode 0b000000000000000000_011000_0000_0010#32 = .command .pack24 ∧
      decode 0b000000000000000000_100000_0000_0010#32 = .command .pack32 := by decide

theorem test_decode_size :
    decode 0b000000000000000000_000001_0000_0011#32 = .command .size1 ∧
      decode 0b000000000000000000_000100_0000_0011#32 = .command .size4 ∧
      decode 0b000000000000000000_001000_0000_0011#32 = .command .size8 ∧
      decode 0b000000000000000000_011000_0000_0011#32 = .command .size24 ∧
      decode 0b000000000000000000_100000_0000_0011#32 = .command .size32 := by decide

/-- 95_test_vectors.md VE-1 to VE-9. -/
theorem test_decode_errors :
    decode 0x00000006 = .illegal .badOp ∧ decode 0x00000011 = .illegal .badOp ∧ decode 0x00004001 = .illegal .badOp ∧
      decode 0x00000100 = .illegal .badOp ∧ decode 0x00001001 = .illegal .unsupported ∧
      decode 0x00000001 = .illegal .unsupported ∧ decode 0x00001804 = .illegal .unsupported ∧
      decode 0x00000205 = .illegal .badOp ∧ decode 0x0000100F = .illegal .badOp := by decide

theorem test_decodeTableWord : decodeTableWord 32 0x00001802 = some .pack24 ∧ decodeTableWord 32 0x00000006 = none := by
  decide

/-! ### Small states -/

/-- The state of a `next` outcome. -/
def after (o : Host.Outcome State Fault Refusal) : State :=
  match o with
  | .next t => t
  | .fault _ => .reset
  | .refused _ => .reset

/-- A pending command word with a width, and the ENGINE to move. -/
def pending (v w : Word) : State := { State.reset with cmd := v, wSnap := w, busy := true }

/-- A state about to make one host access. -/
def accessing (op : HostOp) : State :=
  { State.reset with env := { schedule := [.host], program := [op], responses := [] } }

/-- ROWBUF bytes from 0 on. -/
def withRow (bs : List Byte) (s : State) : State := { s with rowbuf := Memory.writeSeq [] 0 bs }

/-- PIXBUF entries from 0 on, as words 0x00RRGGBB. -/
def withPixels (vs : List Word) (s : State) : State :=
  { s with pixbuf := Memory.writeSeq [] 0 (vs.map fun v => pixelOfBits (v.extractLsb' 0 24)) }

/-- PALETTE entries 0 and 1, valid. -/
def withPalette2 (v0 v1 : Word) (s : State) : State := (s.writePalWord 0 v0).writePalWord 1 v1

/-- The entries of the GENRAMP.8 palette that the vectors V8 use, valid (42_control.md R199). -/
def rampPart (s : State) : State :=
  ((((s.writePalWord 0 0x00000000).writePalWord 1 0x00000000).writePalWord 2 0x00010101).writePalWord 16
    0x000F0F0F).writePalWord 255 0x00FEFEFE

/-- The first `n` PIXBUF words. -/
def pixelWords (n : Nat) (s : State) : List Word := (List.range n).map fun i => s.readLoc (.pixWord i)

/-- The first `n` ROWBUF bytes. -/
def rowBytes (n : Nat) (s : State) : List Byte := (List.range n).map s.rowByte

/-- ROWDATA, ROWPAD, ROWSTRIDE. -/
def geometry (s : State) : List Word := [s.rowData, s.rowPad, s.rowStride]

/-- The palette and width of V1-1. -/
def start1 (v : Word) : State := withPalette2 0x00112233 0x00AABBCC (pending v 10)

/-- The pixels of V1-1. -/
def pixels1 : List Word :=
  [0xAABBCC, 0x112233, 0xAABBCC, 0x112233, 0x112233, 0xAABBCC, 0x112233, 0xAABBCC, 0xAABBCC, 0xAABBCC]

/-- A row command's next state when its width is in range, in a form that evaluates. -/
theorem after_row {i : Instr} {s : State} {bc : BitCount} {work : State → State} (w : Nat) (hw : s.w = w)
    (he : exec i s = .next (s.rowCommand bc work)) (h : w ≤ maxWidth) :
    after (exec i s) = (work (s.setGeometry bc)).finish := by
  rw [he, rowCommand_ok bc work (by rw [hw]; exact h)]
  rfl

/-! ### Vectors of 95_test_vectors.md, part 2 -/

/-- V1-1. -/
theorem test_unpack1 (h : 10 ≤ maxWidth) :
    ∃ t, after (exec .unpack1 (withRow [0xA5, 0xC0, 0x00, 0x00] (start1 0x00000101))) = t ∧
      pixelWords 10 t = pixels1 ∧ geometry t = [2, 2, 4] ∧ t.statusWord = 0x2 :=
  ⟨_, after_row 10 rfl rfl h, by decide +kernel⟩

/-- V1-3: PAL_INVALID with the geometry set; PIXBUF, here never written, is still unwritten. -/
theorem test_unpack1_invalid (h : 10 ≤ maxWidth) :
    ∃ t, after (exec .unpack1 (withRow [0xA5, 0xC0, 0x00, 0x00] ((pending 0x00000101 10).writePalWord 0 0))) = t ∧
      t.pixbuf = [] ∧ geometry t = [2, 2, 4] ∧ t.statusWord = 0x46 :=
  ⟨_, after_row 10 rfl rfl h, by decide +kernel⟩

/-- V4-1. -/
theorem test_unpack4 (h : 3 ≤ maxWidth) :
    ∃ t, after (exec .unpack4 (withRow [0x12, 0x3F, 0x00, 0x00] ((pending 0x00000401 3).genramp .bc4))) = t ∧
      pixelWords 3 t = [0x0F0F0F, 0x1F1F1F, 0x2F2F2F] ∧ geometry t = [2, 2, 4] ∧ t.statusWord = 0x2 :=
  ⟨_, after_row 3 rfl rfl h, by decide +kernel⟩

/-- V8-1. -/
theorem test_unpack8 (h : 5 ≤ maxWidth) :
    ∃ t, after (exec .unpack8 (withRow [0x00, 0x01, 0x02, 0xFF, 0x10, 0, 0, 0] (rampPart (pending 0x00000801 5)))) = t ∧
      pixelWords 5 t = [0x000000, 0x000000, 0x010101, 0xFEFEFE, 0x0F0F0F] ∧ geometry t = [5, 3, 8] ∧
      t.statusWord = 0x2 :=
  ⟨_, after_row 5 rfl rfl h, by decide +kernel⟩

/-- V24-1. -/
theorem test_unpack24 (h : 5 ≤ maxWidth) :
    ∃ t, after (exec .unpack24 (withRow [1, 2, 3, 4, 5, 6, 7, 8, 9, 10, 11, 12, 13, 14, 15, 0] (pending 0x00001801 5))) = t ∧
      pixelWords 5 t = [0x030201, 0x060504, 0x090807, 0x0C0B0A, 0x0F0E0D] ∧ geometry t = [15, 1, 16] ∧
      t.statusWord = 0x2 :=
  ⟨_, after_row 5 rfl rfl h, by decide +kernel⟩

/-- V32-1. -/
theorem test_unpack32 (h : 2 ≤ maxWidth) :
    ∃ t, after (exec .unpack32 (withRow [0x33, 0x22, 0x11, 0xFF, 0x66, 0x55, 0x44, 0x00] (pending 0x00002001 2))) = t ∧
      pixelWords 2 t = [0x112233, 0x445566] ∧ geometry t = [8, 0, 8] ∧ t.statusWord = 0x2 :=
  ⟨_, after_row 2 rfl rfl h, by decide +kernel⟩

/-- V1-2. -/
theorem test_pack1 (h : 10 ≤ maxWidth) :
    ∃ t, after (exec .pack1 (withPixels pixels1 (start1 0x00000102))) = t ∧
      rowBytes 4 t = [0xA5, 0xC0, 0x00, 0x00] ∧ geometry t = [2, 2, 4] ∧ t.statusWord = 0x2 :=
  ⟨_, after_row 10 rfl rfl h, by decide +kernel⟩

/-- V4-2. -/
theorem test_pack4 (h : 3 ≤ maxWidth) :
    ∃ t, after (exec .pack4 (withPixels [0x0F0F0F, 0x1F1F1F, 0x2F2F2F] ((pending 0x00000402 3).genramp .bc4))) = t ∧
      rowBytes 4 t = [0x12, 0x30, 0x00, 0x00] ∧ geometry t = [2, 2, 4] ∧ t.statusWord = 0x2 :=
  ⟨_, after_row 3 rfl rfl h, by decide +kernel⟩

/-- V8-2: duplicate colours take the lowest index. -/
theorem test_pack8 (h : 5 ≤ maxWidth) :
    ∃ t, after (exec .pack8
        (withPixels [0x000000, 0x000000, 0x010101, 0xFEFEFE, 0x0F0F0F] (rampPart (pending 0x00000802 5)))) = t ∧
      rowBytes 8 t = [0x00, 0x00, 0x02, 0xFF, 0x10, 0, 0, 0] ∧ geometry t = [5, 3, 8] ∧ t.statusWord = 0x2 :=
  ⟨_, after_row 5 rfl rfl h, by decide +kernel⟩

/-- V8-3: PAL_NOMATCH; ROWBUF, here never written, is still unwritten. -/
theorem test_pack8_no_match (h : 5 ≤ maxWidth) :
    ∃ t, after (exec .pack8
        (withPixels [0x000000, 0x000000, 0x010101, 0xFFFFFF, 0x0F0F0F] (rampPart (pending 0x00000802 5)))) = t ∧
      t.rowbuf = [] ∧ geometry t = [5, 3, 8] ∧ t.statusWord = 0x56 :=
  ⟨_, after_row 5 rfl rfl h, by decide +kernel⟩

/-- V24-2. -/
theorem test_pack24 (h : 5 ≤ maxWidth) :
    ∃ t, after (exec .pack24
        (withPixels [0x030201, 0x060504, 0x090807, 0x0C0B0A, 0x0F0E0D] (pending 0x00001802 5))) = t ∧
      rowBytes 16 t = [1, 2, 3, 4, 5, 6, 7, 8, 9, 10, 11, 12, 13, 14, 15, 0] ∧ geometry t = [15, 1, 16] ∧
      t.statusWord = 0x2 :=
  ⟨_, after_row 5 rfl rfl h, by decide +kernel⟩

/-- V32-2. -/
theorem test_pack32 (h : 2 ≤ maxWidth) :
    ∃ t, after (exec .pack32 (withPixels [0x112233, 0x445566] (pending 0x00002002 2))) = t ∧
      rowBytes 8 t = [0x33, 0x22, 0x11, 0x00, 0x66, 0x55, 0x44, 0x00] ∧ geometry t = [8, 0, 8] ∧ t.statusWord = 0x2 :=
  ⟨_, after_row 2 rfl rfl h, by decide +kernel⟩

/-- The geometry table of part 2 at W = 9, for each SIZE command. -/
theorem test_size (h : 9 ≤ maxWidth) :
    geometry (after (exec .size1 (pending 0x00000103 9))) = [2, 2, 4] ∧
      geometry (after (exec .size4 (pending 0x00000403 9))) = [5, 3, 8] ∧
      geometry (after (exec .size8 (pending 0x00000803 9))) = [9, 3, 12] ∧
      geometry (after (exec .size24 (pending 0x00001803 9))) = [27, 1, 28] ∧
      geometry (after (exec .size32 (pending 0x00002003 9))) = [36, 0, 36] := by
  refine ⟨?_, ?_, ?_, ?_, ?_⟩ <;> rw [after_row 9 rfl rfl h] <;> decide +kernel

/-- VE-11: the comparison of W with MAX_WIDTH is unsigned and cannot wrap. -/
theorem test_width_range : (after (exec .size24 (pending 0x00001803 0xFFFFFFFF))).statusWord = 0x36 := by
  have h : maxWidth < (pending 0x00001803 0xFFFFFFFF).w := lt_of_le_of_lt maxWidth_le (by decide)
  show (State.rowCommand .bc24 id (pending 0x00001803 0xFFFFFFFF)).statusWord = 0x36
  rw [rowCommand_wide _ _ h]
  decide

/-- VR-1. -/
theorem test_genramp1 :
    let t := after (exec .genramp1 (pending 0x00000104 10))
    t.readLoc (.palette 0) = 0x00000000 ∧ t.readLoc (.palette 1) = 0x007F7F7F ∧ t.palValidWord 0 = 0x00000003 ∧
      t.palValidWord 1 = 0 := by decide +kernel

/-- VR-2, VR-4: with WIDTH = 0xFFFFFFFF. -/
theorem test_genramp4 :
    let t := after (exec .genramp4 (pending 0x00000404 0xFFFFFFFF))
    t.readLoc (.palette 1) = 0x000F0F0F ∧ t.readLoc (.palette 15) = 0x00EFEFEF ∧ t.palValidWord 0 = 0x0000FFFF ∧
      t.statusWord = 0x2 ∧ geometry t = [0, 0, 0] := by decide +kernel

/-- VR-3. -/
theorem test_genramp8 :
    let t := after (exec .genramp8 (pending 0x00000804 10))
    t.readLoc (.palette 0) = 0x00000000 ∧ t.readLoc (.palette 1) = 0x00000000 ∧ t.readLoc (.palette 2) = 0x00010101 ∧
      t.readLoc (.palette 255) = 0x00FEFEFE ∧ t.palValidWord 7 = 0xFFFFFFFF := by decide +kernel

/-- VR-6. -/
theorem test_palclr :
    let t := after (exec .palclr (start1 0x00000005))
    t.readLoc (.palette 0) = 0 ∧ t.readLoc (.palette 255) = 0 ∧ t.palValidWord 0 = 0 ∧ t.palValidWord 7 = 0 ∧
      t.statusWord = 0x2 := by decide +kernel

/-- VR-7. -/
theorem test_nop : after (exec .nop (pending 0 10)) = { pending 0 10 with busy := false, done := true } := by decide

/-- VE-5, VE-13: an illegal word completes as an error, and a first error is kept. -/
theorem test_illegal_words :
    (after (step (pending 0x00001001 10))).statusWord = 0x26 ∧
      (after (step { pending 0x00001001 10 with err := true, errCode := .badOp })).statusWord = 0x16 := by decide

/-- VB-1, VB-2, VB-3. -/
theorem test_bus_errors :
    lastResponse (after (step (accessing (.read 0x040 4)))) = some (.readError 0) ∧
      lastResponse (after (step (accessing (.write 0x00E 4 0x12345678)))) = some .writeError ∧
      lastResponse (after (step (accessing (.write 0x018 4 7)))) = some .writeOk ∧
      (after (step (accessing (.write 0x018 4 7)))).rowStride = 0 := by decide

/-- VB-4: a window is closed while a command is pending, and STATUS reads BUSY = 1. -/
theorem test_bus_busy :
    (State.busRead { State.reset with busy := true } 0x400 4).isError = true ∧
      State.busRead { State.reset with busy := true } 0x004 4 = .readOk 0x1 := by decide

/-- VB-5, VB-6. -/
theorem test_bus_writes :
    let t := after (step (accessing (.write 0x40C 4 0xAA102030)))
    t.readLoc (.palette 3) = 0xAA102030 ∧ t.palValidWord 0 = 0x8 ∧
      (after (step (accessing (.write 0x008 4 3)))).ctrlWord = 0x3 ∧
      (after (step (accessing (.write 0x008 4 0xFFFFFFFF)))).ctrlWord = 0 := by decide +kernel

/-- VO-1: a second CMD write while one is pending. -/
theorem test_overrun :
    let t := after (step { accessing (.write 0x000 4 0x00001803) with cmd := 0x00000803, wSnap := 5, busy := true })
    t.statusWord = 0x65 ∧ t.cmd = 0x00000803 := by decide

/-- P4, the interrupt: IE_ERR with an error, and each source cleared. -/
theorem test_irq :
    let t := after (step { pending 0x00001001 0 with ieErr := true })
    t.irq = true ∧ (t.clearStatus 4).irq = false ∧ (t.clearStatus 4).statusWord = 0x2 := by decide

/-- The word placed for a first step is the command that runs. -/
theorem test_withFetchWord : (after (step (State.reset.withFetchWord 32 0x00000404))).palValidWord 0 = 0x0000FFFF := by
  decide +kernel

/-- The host's program for one stored row, from the lines of P1 (20_memory.md R85). -/
theorem test_decodeRow :
    (expandProgram (decodeRow .bc1 10 [0x0000C0A5])).take 8 =
      [.poll 0x004 1 0, .write 0x00C 4 0x0000000A, .write 0x10000 4 0x0000C0A5, .write 0x004 4 0x00000006,
        .write 0x000 4 0x00000101, .poll 0x004 1 0, .read 0x004 4, .read 0x20000 4] := by decide

/-- Written memories are in canonical form, whatever the order of the writes. -/
theorem test_memory_wf :
    Memory.wf (Memory.write (Memory.write (Memory.write [] 7 (1 : Byte)) 3 2) 7 4) ∧
      Memory.write (Memory.write (Memory.write [] 7 (1 : Byte)) 3 2) 7 4 = [(3, 2), (7, 4)] := by decide

/-! ### Witnesses: for every statement with hypotheses, states and operands that meet them -/

/-- A state whose next step is the reset input. -/
def resetting (s : State) : State := { s with env := { schedule := [.reset], program := [], responses := [] } }

/-- The same state with a command pending. -/
def busy (s : State) : State := { s with busy := true }

/-- The offset of word `k` of a window. -/
def windowOffset (base k : Nat) : Offset := BitVec.ofNat 18 (base + 4 * k)

/-- A write of word 0 or of the last word of a buffer's window reaches it. -/
theorem writes_window (k : Nat) (v : Word) (hk : k < maxWidth) :
    HostWrites (accessing (.write (windowOffset 0x10000 k) 4 v)) (.rowWord k) v ∧
      HostWrites (accessing (.write (windowOffset 0x20000 k) 4 v)) (.pixWord k) v := by
  have hm := maxWidth_le
  have h1 : (windowOffset 0x10000 k).toNat = 0x10000 + 4 * k := by
    unfold windowOffset; rw [BitVec.toNat_ofNat]; omega
  have h2 : (windowOffset 0x20000 k).toNat = 0x20000 + 4 * k := by
    unfold windowOffset; rw [BitVec.toNat_ofNat]; omega
  constructor
  · refine ⟨_, ⟨rfl, rfl⟩, target_eq_some.mpr ⟨rfl, by omega, ?_, fun h => by cases h⟩⟩
    rw [h1]; unfold locationAt
    rw [if_neg (by omega), if_neg (by omega), if_neg (by omega), if_pos (by omega),
      show (0x10000 + 4 * k - 0x10000) / 4 = k by omega, if_pos hk]
  · refine ⟨_, ⟨rfl, rfl⟩, target_eq_some.mpr ⟨rfl, by omega, ?_, fun h => by cases h⟩⟩
    rw [h2]; unfold locationAt
    rw [if_neg (by omega), if_neg (by omega), if_neg (by omega), if_neg (by omega), if_pos (by omega),
      show (0x20000 + 4 * k - 0x20000) / 4 = k by omega, if_pos hk]

/-- A state of any width with a palette, a stored row and pixels, and the command `v` pending. -/
def loaded (v w : Word) : State :=
  withRow [0x80, 0, 0, 0] (withPixels [0x112233] (withPalette2 0x00000000 0x00112233 (pending v w)))

/-- MAX_WIDTH as a width. -/
def widest : Word := BitVec.ofNat 32 maxWidth

theorem widest_toNat : widest.toNat = maxWidth := by
  have := maxWidth_le
  unfold widest; rw [BitVec.toNat_ofNat]; omega

/-- HardwareResetValues. -/
theorem witness_reset_input : (resetting (busy (start1 0x00000101))).turn = .reset := rfl

/-- IdleBlockDoesNothing. -/
theorem witness_idle : State.reset.busy = false ∧ State.reset.env.program = [] ∧ State.reset.turn ≠ .reset := by decide

/-- SoftResetKeepsMemories, CtrlSetsEnables (bit 31 set), idle and busy. -/
theorem witness_soft_reset :
    HostWrites (accessing (.write 0x008 4 0x80000003)) .ctrl 0x80000003 ∧
      HostWrites (busy (accessing (.write 0x008 4 0x80000003))) .ctrl 0x80000003 ∧
      (0x80000003 : Word).getLsbD 31 = true :=
  ⟨⟨_, ⟨rfl, rfl⟩, by decide⟩, ⟨_, ⟨rfl, rfl⟩, by decide⟩, by decide⟩

/-- IllegalWordsClassified: a word in each case. -/
theorem witness_word_classes :
    BadOpWord 0x00004001 ∧ BadOpWord 0x00000011 ∧ BadOpWord 0x00000006 ∧ BadOpWord 0x00000100 ∧
      BadOpWord 0x00000205 ∧ UnsupportedWord 0x00000001 ∧ UnsupportedWord 0x00003F03 ∧ UnsupportedWord 0x00001804 ∧
      ¬ BadOpWord 0x00002003 ∧ ¬ UnsupportedWord 0x00002003 := by
  refine ⟨?_, ?_, ?_, ?_, ?_, ?_, ?_, ?_, ?_, ?_⟩ <;> simp only [UnsupportedWord, BadOpWord, opOf, bcOf] <;> decide

/-- BadOpChangesStatusOnly, UnsupportedChangesStatusOnly, with a width out of range. -/
theorem witness_illegal_steps :
    (EngineMoves (pending 0x00000006 16385) ∧ BadOpWord (pending 0x00000006 16385).cmd) ∧
      EngineMoves (pending 0x00001001 16385) ∧ UnsupportedWord (pending 0x00001001 16385).cmd := by
  unfold EngineMoves UnsupportedWord BadOpWord opOf bcOf; decide

/-- WideRowsRejected and every row command's own clause: the least width surely out of range, and the greatest. -/
theorem witness_wide : maxWidth < (pending 0x00000101 16385).w ∧ maxWidth < (pending 0x00001803 0xFFFFFFFF).w :=
  ⟨lt_of_le_of_lt maxWidth_le (by decide), lt_of_le_of_lt maxWidth_le (by decide)⟩

/-- OneErrorInPriorityOrder: a state in each of its clauses, the last one for a row command and for another. -/
theorem witness_priority :
    (∀ v ∈ [0x00000006, 0x00001001, 0x00000101, 0x00000104], EngineMoves (pending v 0) ∧ (pending v 0).err = false ∧
      ∃ t, step (pending v 0) = .next t) ∧
      BadOpWord 0x00000006 ∧ UnsupportedWord 0x00001001 ∧ ¬ BadOpWord 0x00000101 ∧ ¬ UnsupportedWord 0x00000101 ∧
      opOf 0x00000101 = 1 ∧ (pending 0x00000101 0).w ≤ maxWidth ∧ maxWidth < (pending 0x00000101 16385).w ∧
      ¬ BadOpWord 0x00000104 ∧ ¬ UnsupportedWord 0x00000104 ∧ 4 ≤ opOf 0x00000104 := by
  refine ⟨?_, by unfold BadOpWord opOf bcOf; decide, by unfold UnsupportedWord BadOpWord opOf bcOf; decide,
    by unfold BadOpWord opOf bcOf; decide, by unfold UnsupportedWord BadOpWord opOf bcOf; decide, by decide,
    Nat.zero_le _, witness_wide.1, by unfold BadOpWord opOf bcOf; decide,
    by unfold UnsupportedWord BadOpWord opOf bcOf; decide, by decide⟩
  intro v hv
  refine ⟨⟨rfl, rfl⟩, rfl, after (step (pending v 0)), ?_⟩
  simp only [List.mem_cons, List.not_mem_nil, or_false] at hv
  rcases hv with rfl | rfl | rfl | rfl <;> rfl

/-- StepRunsDecodedCommand, DecodeAndEncodeAgree. -/
theorem witness_executes :
    EngineMoves (pending 0x00002001 5) ∧ decode (pending 0x00002001 5).cmd = .command .unpack32 := by
  unfold EngineMoves; decide

/-- NoCommandHangs: a pending command behind two turns of the host. -/
theorem witness_pending :
    (State.busy { pending 0 0 with env := { schedule := [.host, .host], program := [], responses := [] } }) = true := rfl

/-- EveryStepKeepsInvariant: a state that meets the invariant and steps. -/
theorem witness_invariant :
    (start1 0x00000101).hardReset.Inv ∧ ∃ t, step (start1 0x00000101).hardReset = .next t :=
  ⟨State.inv_hardReset _, _, rfl⟩

/-- The UNPACK, PACK and SIZE statements: the widths 0, 1 and MAX_WIDTH are in range. -/
theorem witness_widths :
    (pending 0x00000101 0).w ≤ maxWidth ∧ (pending 0x00000101 1).w ≤ maxWidth ∧ (pending 0x00000101 widest).w ≤ maxWidth :=
  ⟨Nat.zero_le _, maxWidth_pos, le_of_eq widest_toNat⟩

/-- Unpack1/4/8DecodesRow: a row of one pixel with every index valid, and one with an invalid index. -/
theorem witness_unpack_indices :
    (∀ x, x < (loaded 0x00000101 1).w → (loaded 0x00000101 1).valid (bitIndex (loaded 0x00000101 1) x) = true) ∧
      (∃ x, x < (loaded 0x00000401 1).w ∧ (loaded 0x00000401 1).valid (nibbleIndex (loaded 0x00000401 1) x) = false) ∧
      ∃ x, x < (loaded 0x00000801 1).w ∧ (loaded 0x00000801 1).valid (byteIndex (loaded 0x00000801 1) x) = false := by
  refine ⟨fun x hx => ?_, ⟨0, by decide, by decide⟩, ⟨0, by decide, by decide⟩⟩
  have : x = 0 := by have : (loaded 0x00000101 1).w = 1 := rfl
                     omega
  subst this; decide

/-- Pack1/4/8EncodesRow: a pixel with a match and, with no entry valid, one with none. -/
theorem witness_pack_matches :
    (∀ x, x < (loaded 0x00000102 1).w → ∃ k, k < 2 ^ 1 ∧ (loaded 0x00000102 1).valid k = true ∧
      ((loaded 0x00000102 1).palEntry k).colour = (loaded 0x00000102 1).pixel x) ∧
      ∃ x, x < (pending 0x00000802 1).w ∧ ∀ k, k < 2 ^ 8 → (pending 0x00000802 1).valid k = true →
        ((pending 0x00000802 1).palEntry k).colour ≠ (pending 0x00000802 1).pixel x := by
  refine ⟨fun x hx => ⟨1, by decide, by decide, ?_⟩, 0, by decide, fun k _ hk => ?_⟩
  · have hw : (loaded 0x00000102 1).w = 1 := rfl
    have : x = 0 := by omega
    subst this; decide
  · exact absurd hk (by rw [show (pending 0x00000802 1).valid k = false from BitVec.getLsbD_zero]; decide)

/-- UnpackIgnoresUnusedBits: two rows of one pixel that differ in the unused bits and the padding. -/
theorem witness_unused_bits :
    let s := withRow [0x80, 0, 0, 0] (start1 0x00000101)
    let s' := withRow [0xFF, 1, 2, 3] (start1 0x00000101)
    let t := { s with wSnap := 1 }
    let t' := { s' with wSnap := 1 }
    SameOperands t t' ∧ SamePalette t t' ∧ SamePixbuf t t' ∧ t.rowByte 0 ≠ t'.rowByte 0 ∧
      ∀ j, j < (t.w * 1 + 7) / 8 → ∀ b, b < 8 → 8 * j + (7 - b) < t.w * 1 →
        (t'.rowByte j).getLsbD b = (t.rowByte j).getLsbD b := by
  refine ⟨⟨rfl, rfl, rfl⟩, ⟨rfl, fun _ => rfl⟩, fun _ => rfl, by decide, fun j hj b hb h => ?_⟩
  have hw : ({ withRow [0x80, 0, 0, 0] (start1 0x00000101) with wSnap := 1 } : State).w = 1 := rfl
  rw [hw] at h
  have hj0 : j = 0 := by omega
  have hb7 : b = 7 := by omega
  subst hj0 hb7; decide

/-- PalclrClearsPalette, its last clause: a row of one pixel after PALCLR. -/
theorem witness_after_palclr :
    ∃ s1, exec .palclr (loaded 0x00000005 1) = .next s1 ∧ 1 ≤ s1.w ∧ s1.w ≤ maxWidth :=
  ⟨_, rfl, le_refl 1, maxWidth_pos⟩

/-- A command that succeeds on a row of one pixel. -/
def Succeeds (i : Instr) (s : State) : Prop :=
  s.w = 1 ∧ s.w ≤ maxWidth ∧ s.err = false ∧ ∃ t, exec i s = .next t ∧ t.err = false

theorem succeeds_row {i : Instr} {s : State} {bc : BitCount} {work : State → State} (hw : s.w = 1) (he : s.err = false)
    (hx : exec i s = .next (s.rowCommand bc work)) (hf : (work (s.setGeometry bc)).err = false) : Succeeds i s := by
  have h1 : s.w ≤ maxWidth := hw ▸ maxWidth_pos
  exact ⟨hw, h1, he, _, hx, by rw [rowCommand_ok bc work h1]; exact hf⟩

/-- PackThenUnpackRestoresPixels: each PACK succeeds; the state after it then meets the premises on `s2`. -/
theorem witness_pack_then_unpack :
    Succeeds .pack1 (loaded 0x00000102 1) ∧ Succeeds .pack4 (loaded 0x00000402 1) ∧
      Succeeds .pack8 (loaded 0x00000802 1) ∧ Succeeds .pack24 (loaded 0x00001802 1) ∧
      Succeeds .pack32 (loaded 0x00002002 1) := by
  refine ⟨?_, ?_, ?_, ?_, ?_⟩ <;> refine succeeds_row rfl rfl rfl ?_ <;> decide +kernel

/-- A row of one pixel with index 1 at every palette depth, the rest of the row 0, and distinct colours. -/
def rowOfOne (b0 : Byte) : State := withRow [b0, 0, 0, 0] (withPalette2 0x00000000 0x00112233 (pending 0 1))

/-- UnpackThenPackRestoresRow: each UNPACK succeeds. -/
theorem witness_unpack_then_pack :
    Succeeds .unpack1 (rowOfOne 0x80) ∧ Succeeds .unpack4 (rowOfOne 0x10) ∧ Succeeds .unpack8 (rowOfOne 0x01) ∧
      Succeeds .unpack24 (rowOfOne 0x01) ∧ Succeeds .unpack32 (rowOfOne 0x01) := by
  refine ⟨?_, ?_, ?_, ?_, ?_⟩ <;> refine succeeds_row rfl rfl rfl ?_ <;> decide +kernel

/-- UnpackThenPackRestoresRow, the premises of exact equality: trailing bits and padding 0, and the two valid
entries distinct. -/
theorem witness_exact_row :
    (∀ x, x < 8 → 1 ≤ x → bitIndex (rowOfOne 0x80) x = 0) ∧ (∀ j, j < 4 → 1 ≤ j → (rowOfOne 0x80).rowByte j = 0) ∧
      ((rowOfOne 0x80).palEntry 0).colour ≠ ((rowOfOne 0x80).palEntry 1).colour ∧
      ∀ k, (rowOfOne 0x80).valid k = true → k = 0 ∨ k = 1 := by
  refine ⟨by decide, by decide, by decide, fun k hk => ?_⟩
  have h : (rowOfOne 0x80).valid k = (((pending 0 1).valid k || decide (k < 256 ∧ 0 = k)) || decide (k < 256 ∧ 1 = k)) := by
    unfold rowOfOne withPalette2
    rw [← valid_writePalWord _ 0 0x00000000, ← valid_writePalWord _ 1 0x00112233]
    rfl
  rw [h, show (pending 0 1).valid k = false from BitVec.getLsbD_zero] at hk
  simp at hk
  omega

/-- InvalidEntriesNeverUsed: entry 5, not valid, and a reserved byte differ. -/
theorem witness_unused_entries :
    let s := loaded 0x00000101 1
    let s' := { s with pal := Memory.write (Memory.write s.pal 5 (palEntryOfWord 0x00ABCDEF)) 1 (palEntryOfWord 0xFF112233) }
    SameOperands s s' ∧ SameGeometry s s' ∧ SameRowbuf s s' ∧ SamePixbuf s s' ∧ s'.pv = s.pv ∧
      s.valid 5 = false ∧ s'.palEntry 1 ≠ s.palEntry 1 ∧ (s'.palEntry 1).colour = (s.palEntry 1).colour ∧
      (s'.palEntry 0).colour = (s.palEntry 0).colour :=
  ⟨⟨rfl, rfl, rfl⟩, ⟨rfl, rfl, rfl⟩, fun _ => rfl, fun _ => rfl, rfl, by decide, by decide, by decide, by decide⟩

/-- FirstErrorIsKept: with no error recorded and with one. -/
theorem witness_errors :
    State.reset.err = false ∧ ({ State.reset with err := true, errCode := .palInvalid } : State).err = true := by decide

/-- ErrorStaysUntilCleared: a pending NOP with an error recorded; and the write that clears it. -/
theorem witness_error_stays :
    (∃ t, step { pending 0 0 with err := true, errCode := .badOp } = .next t ∧ t.err = true) ∧
      ∃ t, step { accessing (.write 0x004 4 4) with err := true, errCode := .badOp } = .next t ∧ t.err = false :=
  ⟨⟨_, rfl, rfl⟩, _, rfl, rfl⟩

/-- ErrorsComeFromCommands: an ENGINE step and an overrun that record an error. -/
theorem witness_error_arises :
    (∃ t, step (pending 0x00000006 0) = .next t ∧ (pending 0x00000006 0).err = false ∧ t.err = true) ∧
      ∃ t, step (busy (accessing (.write 0x000 4 0))) = .next t ∧ t.err = true :=
  ⟨⟨_, rfl, rfl, rfl⟩, _, rfl, rfl⟩

/-- BusyRisesAndFalls, DoneRisesAndFalls: each flag in each direction. -/
theorem witness_flags_move :
    (∃ t, step (accessing (.write 0x000 4 0)) = .next t ∧ t.busy = true) ∧
      (∃ t, step (pending 0 0) = .next t ∧ t.busy = false ∧ (pending 0 0).done = false ∧ t.done = true) ∧
      (∃ t, step (busy (accessing (.write 0x008 4 0x80000000))) = .next t ∧ t.busy = false) ∧
      ∃ t, step { accessing (.write 0x004 4 2) with done := true } = .next t ∧ t.done = false :=
  ⟨⟨_, rfl, rfl⟩, ⟨_, rfl, rfl, rfl, rfl⟩, ⟨_, rfl, rfl⟩, _, rfl, rfl⟩

/-- ValidFlagsRiseAndFall: a PALETTE write, a GENRAMP, a PALCLR and a reset. -/
theorem witness_valid_moves :
    (∃ t, step (accessing (.write 0x7FC 4 0)) = .next t ∧ State.reset.valid 255 = false ∧ t.valid 255 = true) ∧
      (∃ t, step (pending 0x00000104 0) = .next t ∧ t.valid 1 = true ∧ t.valid 2 = false) ∧
      (∃ t, step (withPalette2 0 0 (pending 0x00000005 0)) = .next t ∧ t.valid 1 = false) ∧
      ∃ t, step (resetting (withPalette2 0 0 State.reset)) = .next t ∧ t.valid 1 = false :=
  ⟨⟨_, rfl, by decide, by decide +kernel⟩, ⟨_, rfl, by decide +kernel, by decide +kernel⟩, ⟨_, rfl, by decide⟩,
    _, rfl, by decide⟩

/-- GeometryChangesOnlyByRowCommands, PendingCommandIsFixed: steps that change the geometry and the command. -/
theorem witness_geometry_moves :
    (∃ t, step (pending 0x00000103 1) = .next t ∧ t.rowData = 1) ∧
      ∃ t, step (accessing (.write 0x000 4 0x00000103)) = .next t ∧ t.cmd = 0x00000103 := by
  refine ⟨⟨_, rfl, ?_⟩, _, rfl, rfl⟩
  have h : (pending 0x00000103 1).nextTurn.w ≤ maxWidth := maxWidth_pos
  show (State.rowCommand .bc1 id (pending 0x00000103 1).nextTurn).rowData = 1
  rw [rowCommand_ok _ _ h]; decide

/-- PendingCommandSeesSteadyMemories: a host step that is no reset while a command is pending. -/
theorem witness_host_step_while_busy :
    let s := busy (accessing (.write 0x400 4 0x00112233))
    (∃ t, step s = .next t) ∧ s.busy = true ∧ s.turn = .host ∧ ¬ Resets s := by
  refine ⟨⟨_, rfl⟩, rfl, rfl, ?_⟩
  rintro (h | ⟨v, ⟨off, ⟨_, hp⟩, ht⟩, _⟩)
  · exact absurd h (by decide)
  · cases hp
    exact absurd ht (by decide)

/-- CmdWriteIsAccepted, CmdWriteWhileBusyOverruns. -/
theorem witness_cmd_writes :
    HostWrites (accessing (.write 0x000 4 0xFFFFFFFF)) .cmd 0xFFFFFFFF ∧
      HostWrites (busy (accessing (.write 0x000 4 0x00001803))) .cmd 0x00001803 :=
  ⟨⟨_, ⟨rfl, rfl⟩, by decide⟩, _, ⟨rfl, rfl⟩, by decide⟩

/-- StatusWriteOneToClear, IrqFollowsStatus, CtrlSetsEnables (bit 31 clear) and WidthHoldsAnyValue. -/
theorem witness_register_writes :
    HostWrites (accessing (.write 0x004 4 6)) .status 6 ∧ HostWrites (accessing (.write 0x008 4 3)) .ctrl 3 ∧
      (3 : Word).getLsbD 31 = false ∧ HostWrites (busy (accessing (.write 0x00C 4 0xFFFFFFFF))) .width 0xFFFFFFFF ∧
      (∃ t, step (accessing (.write 0x004 4 6)) = .next t) ∧ Resets (resetting State.reset) ∧
      ∃ t, step (resetting State.reset) = .next t :=
  ⟨⟨_, ⟨rfl, rfl⟩, by decide⟩, ⟨_, ⟨rfl, rfl⟩, by decide⟩, by decide, ⟨_, ⟨rfl, rfl⟩, by decide⟩, ⟨_, rfl⟩, .inl rfl,
    _, rfl⟩

/-- ReadOnlyRegisters: a write to each of them, PALVALID0 and PALVALID7 at the ends. -/
theorem witness_read_only_writes :
    HostWrites (accessing (.write 0x010 4 7)) .rowData 7 ∧ HostWrites (accessing (.write 0x014 4 7)) .rowPad 7 ∧
      HostWrites (accessing (.write 0x018 4 7)) .rowStride 7 ∧ HostWrites (accessing (.write 0x01C 4 7)) .param 7 ∧
      HostWrites (accessing (.write 0x020 4 7)) (.palValid 0) 7 ∧
      HostWrites (accessing (.write 0x03C 4 7)) (.palValid 7) 7 :=
  ⟨⟨_, ⟨rfl, rfl⟩, by decide⟩, ⟨_, ⟨rfl, rfl⟩, by decide⟩, ⟨_, ⟨rfl, rfl⟩, by decide⟩, ⟨_, ⟨rfl, rfl⟩, by decide⟩,
    ⟨_, ⟨rfl, rfl⟩, by decide⟩, ⟨_, ⟨rfl, rfl⟩, by decide⟩⟩

/-- BusErrorsExactly, AddressMap: the offsets where the ranges meet, one side and the other. -/
theorem witness_map_edges :
    State.reset.target 0x03C 4 = some (.palValid 7) ∧ State.reset.target 0x040 4 = none ∧
      State.reset.target 0x3FC 4 = none ∧ State.reset.target 0x400 4 = some (.palette 0) ∧
      State.reset.target 0x7FC 4 = some (.palette 255) ∧ State.reset.target 0x800 4 = none ∧
      State.reset.target 0xFFFC 4 = none ∧ (0x2FFFC : Offset).toNat < 0x30000 ∧ State.reset.busy = false := by decide

/-- BusErrorsExactly, RowbufWindow, PixbufWindow: where MAX_WIDTH is below its bound, word MAX_WIDTH stands in each
buffer's window and is no word of it, in the register space. (At the bound itself, the window ends with its last word.) -/
theorem witness_beyond_window (h : maxWidth < 0x4000) :
    (windowOffset 0x10000 maxWidth).toNat = 0x10000 + 4 * maxWidth ∧
      (windowOffset 0x20000 maxWidth).toNat = 0x20000 + 4 * maxWidth ∧
      (windowOffset 0x20000 maxWidth).toNat < 0x30000 ∧
      State.reset.target (windowOffset 0x10000 maxWidth) 4 = none ∧
      State.reset.target (windowOffset 0x20000 maxWidth) 4 = none := by
  have h1 : (windowOffset 0x10000 maxWidth).toNat = 0x10000 + 4 * maxWidth := by
    unfold windowOffset; rw [BitVec.toNat_ofNat]; omega
  have h2 : (windowOffset 0x20000 maxWidth).toNat = 0x20000 + 4 * maxWidth := by
    unfold windowOffset; rw [BitVec.toNat_ofNat]; omega
  have n1 : locationAt (0x10000 + 4 * maxWidth) = none := by
    unfold locationAt
    rw [if_neg (by omega), if_neg (by omega), if_neg (by omega), if_pos (by omega), if_neg (by omega)]
  have n2 : locationAt (0x20000 + 4 * maxWidth) = none := by
    unfold locationAt
    rw [if_neg (by omega), if_neg (by omega), if_neg (by omega), if_neg (by omega), if_pos (by omega),
      if_neg (by omega)]
  refine ⟨h1, h2, by omega, Option.eq_none_iff_forall_ne_some.mpr fun l hl => ?_,
    Option.eq_none_iff_forall_ne_some.mpr fun l hl => ?_⟩
  · have := (target_eq_some.mp hl).2.2.1
    rw [h1, n1] at this; cases this
  · have := (target_eq_some.mp hl).2.2.1
    rw [h2, n2] at this; cases this

/-- BusErrorsExactly, its last clause: the first and the last aligned offset that 18 bits name beyond the register
space. -/
theorem witness_beyond_space : 0x30000 ≤ (0x30000 : Offset).toNat ∧ 0x30000 ≤ (0x3FFFC : Offset).toNat := by decide

/-- BusErrorChangesNothing: a misaligned read and a write of half a word, both inside the register space. -/
theorem witness_bus_errors :
    (HostMoves (accessing (.read 0x002 4)) (.read 0x002 4) ∧ (accessing (.read 0x002 4)).target 0x002 4 = none) ∧
      (HostMoves (accessing (.write 0x000 2 7)) (.write 0x000 2 7) ∧
        (accessing (.write 0x000 2 7)).target 0x000 2 = none) ∧
      (0x002 : Offset).toNat < 0x30000 ∧ (0x000 : Offset).toNat < 0x30000 :=
  ⟨⟨⟨rfl, rfl⟩, by decide⟩, ⟨⟨rfl, rfl⟩, by decide⟩, by decide, by decide⟩

/-- ReadsHaveNoSideEffect: a read of CMD while a command is pending. -/
theorem witness_reads :
    HostMoves (busy (accessing (.read 0x000 4))) (.read 0x000 4) ∧
      (busy (accessing (.read 0x000 4))).target 0x000 4 = some .cmd := ⟨⟨rfl, rfl⟩, by decide⟩

/-- PollRepeatsUntilMatch: WAIT, satisfied and not. -/
theorem witness_poll :
    HostMoves (accessing (.poll 0x004 1 0)) (.poll 0x004 1 0) ∧
      ((accessing (.poll 0x004 1 0)).busRead 0x004 4).data &&& 1 = 0 ∧
      HostMoves (busy (accessing (.poll 0x004 1 0))) (.poll 0x004 1 0) ∧
      ((busy (accessing (.poll 0x004 1 0))).busRead 0x004 4).data &&& 1 ≠ 0 :=
  ⟨⟨rfl, rfl⟩, by decide, ⟨rfl, rfl⟩, by decide⟩

/-- RowbufWindow, PixbufWindow: writes of the first and of the last word; a last word that is one only if MAX_WIDTH is
the greatest allowed. -/
theorem witness_buffer_writes (v : Word) :
    HostWrites (accessing (.write (windowOffset 0x10000 0) 4 v)) (.rowWord 0) v ∧
      HostWrites (accessing (.write (windowOffset 0x20000 (maxWidth - 1)) 4 v)) (.pixWord (maxWidth - 1)) v ∧
      maxWidth - 1 < 0x4000 ∧ (accessing (.write (windowOffset 0x10000 0) 4 v)).busy = false := by
  have h1 := maxWidth_pos
  have h2 := maxWidth_le
  exact ⟨(writes_window 0 v h1).1, (writes_window _ v (by omega)).2, by omega, rfl⟩

/-- PaletteWindow: writes of the first and of the last word. -/
theorem witness_palette_writes :
    HostWrites (accessing (.write 0x400 4 0xAA102030)) (.palette 0) 0xAA102030 ∧
      HostWrites (accessing (.write 0x7FC 4 0xAA102030)) (.palette 255) 0xAA102030 :=
  ⟨⟨_, ⟨rfl, rfl⟩, by decide⟩, _, ⟨rfl, rfl⟩, by decide⟩

/-- IrqRisesOnlyByEvents: an ENGINE step, an overrun and a CTRL write, each raising IRQ. -/
theorem witness_irq_rises :
    (∃ t, step { pending 0 0 with ieDone := true } = .next t ∧ State.irq { pending 0 0 with ieDone := true } = false ∧
      t.irq = true) ∧
      (∃ t, step { busy (accessing (.write 0x000 4 0)) with ieErr := true } = .next t ∧ t.irq = true) ∧
      ∃ t, step { accessing (.write 0x008 4 1) with done := true } = .next t ∧ t.irq = true :=
  ⟨⟨_, rfl, by decide, by decide⟩, ⟨_, rfl, by decide⟩, _, rfl, by decide⟩

end Sys2Proof.Tests
end

-- Proofs of the family 00_scope.md: every step goes on, and no command hangs.
section
namespace Sys2Proof.Machine

open Sys2Proof.Claims

/-! ### What a step does to the environment -/

@[simp] theorem State.writeCmd_env (s : State) (v : Word) : (s.writeCmd v).env = s.env := by
  cases hb : s.busy with
  | true => rw [writeCmd_busy v hb, State.recordError_env]
  | false => rw [writeCmd_idle v hb, State.acceptCommand_env]

@[simp] theorem State.writeCtrl_env (s : State) (v : Word) : (s.writeCtrl v).env = s.env := by
  cases hv : v.getLsbD 31 with
  | true => rw [writeCtrl_set s hv, State.softReset_env]
  | false => rw [writeCtrl_clear s hv]

@[simp] theorem State.writeLoc_env (s : State) (v : Word) (l : Loc) : (s.writeLoc v l).env = s.env := by
  cases l <;> simp [State.writeLoc]

@[simp] theorem hostStep_schedule (s : State) : s.hostStep.env.schedule = s.env.schedule := by
  rcases hostStep_cases s with ⟨_, h⟩ | ⟨p, r, h⟩ | ⟨off, v, rest, l, _, _, h⟩ <;> rw [h]
  · simp
  · simp

/-- Whoever moves, a step uses up the schedule's first entry and no other (log entry 4). -/
theorem step_schedule {s t : State} (h : step s = .next t) : t.env.schedule = s.env.schedule.tail := by
  rcases step_cases h with ⟨_, rfl⟩ | ⟨_, _, rfl⟩ | ⟨_, _, he⟩ | ⟨_, rfl⟩
  · simp
  · simp
  · simp [(engineStep_keepsControl he).env]
  · simp

/-! ### A step goes on -/

/-- No step ends in a fault or a refusal (00_scope.md R12). -/
theorem step_goes_on (s : State) : s.GoesOn := by
  cases ht : s.turn with
  | host => exact ⟨_, step_host ht⟩
  | reset => exact ⟨_, step_reset ht⟩
  | engine =>
    cases hb : s.busy with
    | false => exact ⟨_, step_engine_idle ht hb⟩
    | true =>
      obtain ⟨t, h⟩ := engineStep_goes_on s.nextTurn
      exact ⟨t, (step_engine ht hb).trans h⟩

/-- An ENGINE step ends with BUSY 0 and DONE 1 (10_state.md R30). -/
theorem step_engine_completes {s t : State} (hm : EngineMoves s) (h : step s = .next t) :
    t.busy = false ∧ t.done = true := by
  obtain ⟨ht, hb⟩ := hm
  rw [step_engine ht hb] at h
  exact engineStep_completes h

/-- With no turn scheduled, a pending command is executed next: the model's fairness (log entry 4). -/
theorem engineMoves_of_schedule_nil {s : State} (hs : s.env.schedule = []) (hb : s.busy = true) : EngineMoves s := by
  refine ⟨?_, hb⟩
  unfold State.turn
  rw [hs]
  exact if_pos hb

/-! ### Runs -/

/-- A run of `n + 1` steps of a machine is one step and a run of `n`. -/
theorem run_succ_of_step {M : Host.Core} {s t : M.State} (n : Nat) (h : M.step s = .next t) :
    M.run (n + 1) s = M.run n t := by
  rw [Host.Core.run, h]

/-- A pending command ends within the scheduled turns and one more, by induction on the schedule: a step with turns left
either ends the command or leaves it pending behind one turn less. -/
theorem busy_falls_within_schedule (ts : List Turn) :
    ∀ s : State, s.env.schedule = ts → s.busy = true →
      ∃ n t, n ≤ ts.length + 1 ∧ Host.Core.run core n s = .next t ∧ t.busy = false := by
  induction ts with
  | nil =>
    intro s hs hb
    obtain ⟨t, ht⟩ := step_goes_on s
    obtain ⟨hbt, _⟩ := step_engine_completes (engineMoves_of_schedule_nil hs hb) ht
    exact ⟨1, t, le_rfl, run_succ_of_step (M := core) 0 ht, hbt⟩
  | cons x ts ih =>
    intro s hs hb
    obtain ⟨t, ht⟩ := step_goes_on s
    cases hbt : t.busy with
    | false => exact ⟨1, t, by simp, run_succ_of_step (M := core) 0 ht, hbt⟩
    | true =>
      have hts : t.env.schedule = ts := by rw [step_schedule ht, hs, List.tail_cons]
      obtain ⟨n, u, hn, hrun, hu⟩ := ih t hts hbt
      exact ⟨n + 1, u, by simpa using hn, (run_succ_of_step (M := core) n ht).trans hrun, hu⟩

end Sys2Proof.Machine

namespace Sys2Proof.Proofs

open Sys2Proof.Machine

/-- Settles O13, by induction on the schedule. -/
theorem noCommandHangs : Obligations.NoCommandHangs :=
  fun s hb => busy_falls_within_schedule s.env.schedule s rfl hb

/-- Settles O12: no kind of step stops, and an ENGINE step completes its command. -/
theorem everyStepGoesOn : Obligations.EveryStepGoesOn := by
  intro s
  obtain ⟨t, ht⟩ := step_goes_on s
  exact ⟨t, ht, fun hm => step_engine_completes hm ht⟩

end Sys2Proof.Proofs
end

-- Proofs of the family 10_state.md: what a step and a command do, the invariant, the flags, and the registers.
section
namespace Sys2Proof.Machine

open Sys2Proof.Claims

/-! ### Everything a step can do, read against the statements' vocabulary -/

theorem recordError_withEnv (s : State) (c : ErrCode) (e : Env) :
    ({ s with env := e } : State).recordError c = { s.recordError c with env := e } := by
  unfold State.recordError
  split <;> rfl

/-- No write reads or changes the environment. -/
theorem writeLoc_withEnv (s : State) (v : Word) (l : Loc) (e : Env) :
    ({ s with env := e } : State).writeLoc v l = { s.writeLoc v l with env := e } := by
  cases l with
  | cmd =>
    show State.writeCmd v _ = { s.writeCmd v with env := e }
    rcases Bool.eq_false_or_eq_true s.busy with hb | hb
    · rw [writeCmd_busy v hb, ← recordError_withEnv]
      exact writeCmd_busy v hb
    · rw [writeCmd_idle v hb]
      exact writeCmd_idle v hb
  | ctrl =>
    show State.writeCtrl v _ = { s.writeCtrl v with env := e }
    cases hv : v.getLsbD 31 with
    | true => rw [writeCtrl_set _ hv, writeCtrl_set _ hv]; rfl
    | false => rw [writeCtrl_clear _ hv, writeCtrl_clear _ hv]
  | _ => rfl

/-- The step of a host write that reaches a location. -/
theorem step_hostWrites {s : State} {l : Loc} {v : Word} (h : HostWrites s l v) :
    step s = .next ((s.nextTurn.writeLoc v l).respond s.env.program.tail .writeOk) := by
  obtain ⟨off, ⟨hturn, hp⟩, ht⟩ := h
  exact step_write hturn hp ht

/-- What a step leaves, up to the environment, and the event that it is. -/
inductive StepEffect (s : State) : State → Prop
  /-- Nothing of the block changes: a read, a refused access, an ignored write, or nobody with anything to do. -/
  | quiet (e : Env) : StepEffect s { s with env := e }
  | accept {v : Word} (e : Env) (hw : HostWrites s .cmd v) (hb : s.busy = false) :
      StepEffect s { s.acceptCommand v with env := e }
  | overrun {v : Word} (e : Env) (hw : HostWrites s .cmd v) (hb : s.busy = true) :
      StepEffect s { s.recordError .cmdOverrun with env := e }
  | clear {v : Word} (e : Env) (hw : HostWrites s .status v) : StepEffect s { s.clearStatus v with env := e }
  | enables {v : Word} (e : Env) (hw : HostWrites s .ctrl v) (hv : v.getLsbD 31 = false) :
      StepEffect s { s with ieDone := v.getLsbD 0, ieErr := v.getLsbD 1, env := e }
  | width {v : Word} (e : Env) (hw : HostWrites s .width v) : StepEffect s { s with width := v, env := e }
  | palette {k : Nat} {v : Word} (e : Env) (hw : HostWrites s (.palette k) v) :
      StepEffect s { s.writePalWord k v with env := e }
  | rowWord {k : Nat} {v : Word} (e : Env) (hw : HostWrites s (.rowWord k) v) :
      StepEffect s { s.writeRowWord k v with env := e }
  | pixWord {i : Nat} {v : Word} (e : Env) (hw : HostWrites s (.pixWord i) v) :
      StepEffect s { s.writePixWord i v with env := e }
  | softReset (e : Env) (hr : Resets s) : StepEffect s { s.softReset with env := e }
  | hardReset (e : Env) (hr : Resets s) : StepEffect s { s.hardReset with env := e }
  | engine {t : State} (hm : EngineMoves s) (he : s.nextTurn.engineStep = .next t) : StepEffect s t

/-- A write that reaches a location has one of these effects, by what the location is. -/
theorem stepEffect_of_hostWrites {s : State} {l : Loc} {v : Word} (hw : HostWrites s l v) (e : Env) :
    StepEffect s { s.writeLoc v l with env := e } := by
  cases l with
  | cmd =>
    show StepEffect s { s.writeCmd v with env := e }
    cases hb : s.busy with
    | true => rw [writeCmd_busy v hb]; exact .overrun e hw hb
    | false => rw [writeCmd_idle v hb]; exact .accept e hw hb
  | ctrl =>
    show StepEffect s { s.writeCtrl v with env := e }
    cases hv : v.getLsbD 31 with
    | true => rw [writeCtrl_set s hv]; exact .softReset e (.inr ⟨v, hw, hv⟩)
    | false => rw [writeCtrl_clear s hv]; exact .enables e hw hv
  | status => exact .clear e hw
  | width => exact .width e hw
  | palette k => exact .palette e hw
  | rowWord k => exact .rowWord e hw
  | pixWord i => exact .pixWord e hw
  | rowData | rowPad | rowStride | param | palValid j => exact .quiet e

/-- Everything a step can do. -/
theorem step_effect {s t : State} (h : step s = .next t) : StepEffect s t := by
  rcases step_cases h with ⟨ht, rfl⟩ | ⟨_, _, rfl⟩ | ⟨ht, hb, he⟩ | ⟨ht, rfl⟩
  · rcases hostStep_cases s.nextTurn with ⟨_, hh⟩ | ⟨p, r, hh⟩ | ⟨off, v, rest, l, hp, hl, hh⟩ <;> rw [hh]
    · exact .quiet _
    · exact .quiet _
    · have hw : HostWrites s l v := ⟨off, ⟨ht, congrArg List.head? hp⟩, hl⟩
      unfold State.nextTurn
      rw [writeLoc_withEnv]
      exact stepEffect_of_hostWrites hw _
  · exact .quiet _
  · exact .engine ⟨ht, hb⟩ he
  · exact .hardReset _ (.inl ht)

/-! ### Commands by their shape -/

/-- The work of a row command at a bit count, in five shapes, with what the callers need of its parameters: an index
is read from ROWBUF, and a direct row's bytes fill its data. -/
inductive RowWork : BitCount → (State → State) → Prop
  | size (bc : BitCount) : RowWork bc id
  | unpackIndexed (bc : BitCount) {index : State → Nat → Byte}
      (hindex : ∀ s s' x, SameRowbuf s s' → index s' x = index s x) : RowWork bc (State.unpackIndexed index)
  | unpackDirect (bc : BitCount) (n : Nat) : RowWork bc (State.unpackDirect n)
  | packIndexed (bc : BitCount) (byteAt : Nat → List Byte → Nat → Byte) : RowWork bc (State.packIndexed bc byteAt)
  | packDirect (bc : BitCount) {bytesOf : Pixel → List Byte}
      (hlen : ∀ (p : Nat → Pixel) (w : Nat), ((List.range w).flatMap fun x => bytesOf (p x)).length = rowDataLen bc w) :
      RowWork bc (State.packDirect bc bytesOf)

theorem index1_congr (s s' : State) (x : Nat) (h : SameRowbuf s s') : index1 s' x = index1 s x := by
  unfold index1; rw [h]

theorem index4_congr (s s' : State) (x : Nat) (h : SameRowbuf s s') : index4 s' x = index4 s x := by
  unfold index4; rw [h]

theorem index8_congr (s s' : State) (x : Nat) (h : SameRowbuf s s') : index8 s' x = index8 s x := h x

theorem directPixel_congr (s s' : State) (n x : Nat) (h : SameRowbuf s s') :
    directPixel s' n x = directPixel s n x := by
  unfold directPixel; rw [h, h, h]

theorem length_flatMap_tripleOf (p : Nat → Pixel) (w : Nat) :
    ((List.range w).flatMap fun x => tripleOf (p x)).length = rowDataLen .bc24 w := by
  rw [(flatMap_tripleOf p w).1, rowDataLen_eq]; simp only [BitCount.toNat]; omega

theorem length_flatMap_quadOf (p : Nat → Pixel) (w : Nat) :
    ((List.range w).flatMap fun x => quadOf (p x)).length = rowDataLen .bc32 w := by
  rw [(flatMap_quadOf p w).1, rowDataLen_eq]; simp only [BitCount.toNat]; omega

/-- The GENRAMP commands with their bit counts. -/
def rampCommands : List (Instr × BitCount) := [(.genramp1, .bc1), (.genramp4, .bc4), (.genramp8, .bc8)]

/-- The four shapes of a command's meaning. -/
inductive Meaning : Instr → (State → State) → Prop
  | row {i : Instr} {bc : BitCount} {work : State → State} (hi : i ∈ rowCommands) (hwork : RowWork bc work) :
      Meaning i (State.rowCommand bc work)
  | nop : Meaning .nop State.finish
  | genramp {i : Instr} {bc : BitCount} (hi : (i, bc) ∈ rampCommands) : Meaning i fun s => (s.genramp bc).finish
  | palclr : Meaning .palclr fun s => s.clearPalette.finish

/-- Every command has one of these meanings. -/
theorem exec_meaning (i : Instr) : ∃ f, Meaning i f ∧ ∀ s, exec i s = .next (f s) := by
  cases i with
  | nop => exact ⟨_, .nop, fun _ => rfl⟩
  | palclr => exact ⟨_, .palclr, fun _ => rfl⟩
  | genramp1 | genramp4 | genramp8 => exact ⟨_, .genramp (by decide), fun _ => rfl⟩
  | size1 | size4 | size8 | size24 | size32 => exact ⟨_, .row (by decide) (.size _), fun _ => rfl⟩
  | unpack1 => exact ⟨_, .row (by decide) (.unpackIndexed .bc1 index1_congr), fun _ => rfl⟩
  | unpack4 => exact ⟨_, .row (by decide) (.unpackIndexed .bc4 index4_congr), fun _ => rfl⟩
  | unpack8 => exact ⟨_, .row (by decide) (.unpackIndexed .bc8 index8_congr), fun _ => rfl⟩
  | unpack24 => exact ⟨_, .row (by decide) (.unpackDirect .bc24 3), fun _ => rfl⟩
  | unpack32 => exact ⟨_, .row (by decide) (.unpackDirect .bc32 4), fun _ => rfl⟩
  | pack1 => exact ⟨_, .row (by decide) (.packIndexed .bc1 packByte1), fun _ => rfl⟩
  | pack4 => exact ⟨_, .row (by decide) (.packIndexed .bc4 packByte4), fun _ => rfl⟩
  | pack8 => exact ⟨_, .row (by decide) (.packIndexed .bc8 fun _ => packByte8), fun _ => rfl⟩
  | pack24 => exact ⟨_, .row (by decide) (.packDirect .bc24 length_flatMap_tripleOf), fun _ => rfl⟩
  | pack32 => exact ⟨_, .row (by decide) (.packDirect .bc32 length_flatMap_quadOf), fun _ => rfl⟩

/-- The meaning of a command that has been executed. -/
theorem meaning_of_exec {i : Instr} {s t : State} (h : exec i s = .next t) : ∃ f, Meaning i f ∧ t = f s := by
  obtain ⟨f, hf, hex⟩ := exec_meaning i
  rw [hex] at h
  cases h
  exact ⟨f, hf, rfl⟩

theorem rampCommands_le {i : Instr} {bc : BitCount} (h : (i, bc) ∈ rampCommands) : bc.toNat ≤ 8 := by
  simp only [rampCommands, List.mem_cons, Prod.mk.injEq, List.not_mem_nil, or_false] at h
  rcases h with ⟨_, rfl⟩ | ⟨_, rfl⟩ | ⟨_, rfl⟩ <;> decide

theorem length_rampEntries_le {i : Instr} {bc : BitCount} (h : (i, bc) ∈ rampCommands) :
    ((List.range (2 ^ bc.toNat)).map (rampEntry bc)).length ≤ 256 := by
  rw [List.length_map, List.length_range]
  exact two_pow_le_of_palette (rampCommands_le h)

/-! ### Every step keeps the invariant -/

section
variable {s : State} (h : s.Inv)
include h

theorem State.Inv.withEnv (e : Env) : ({ s with env := e } : State).Inv :=
  h.of_same rfl rfl rfl rfl rfl rfl rfl rfl rfl

theorem State.Inv.unpackIndexed (index : State → Nat → Byte) (hw : s.w ≤ maxWidth) : (s.unpackIndexed index).Inv := by
  rcases unpackIndexed_cases s index with ⟨_, ho⟩ | ⟨_, ho⟩ <;> rw [ho]
  · exact h.writePixels _ (by simpa using hw)
  · exact h.recordError (by decide)

theorem State.Inv.packIndexed (bc : BitCount) (byteAt : Nat → List Byte → Nat → Byte) (hw : s.w ≤ maxWidth) :
    (s.packIndexed bc byteAt).Inv := by
  rcases packIndexed_cases s bc byteAt with ⟨idx, _, _, ho⟩ | ⟨_, ho⟩ <;> rw [ho]
  · exact h.writeStoredRow bc _ hw (by simp)
  · exact h.recordError (by decide)

theorem RowWork.keeps_inv {bc : BitCount} {work : State → State} (hwork : RowWork bc work) (hw : s.w ≤ maxWidth) :
    (work s).Inv := by
  cases hwork with
  | size => exact h
  | unpackIndexed => exact h.unpackIndexed _ hw
  | unpackDirect => exact h.writePixels _ (by simpa using hw)
  | packIndexed => exact h.packIndexed _ _ hw
  | packDirect hlen => exact h.writeStoredRow bc _ hw (hlen _ _)

theorem State.Inv.rowCommand {bc : BitCount} {work : State → State} (hwork : RowWork bc work) :
    (s.rowCommand bc work).Inv := by
  rcases Nat.lt_or_ge maxWidth s.w with hw | hw
  · rw [rowCommand_wide bc work hw]
    exact h.finishError (by decide)
  · rw [rowCommand_ok bc work hw]
    exact (RowWork.keeps_inv (h.setGeometry bc hw) hwork hw).finish

theorem Meaning.keeps_inv {i : Instr} {f : State → State} (hf : Meaning i f) : (f s).Inv := by
  cases hf with
  | row _ hwork => exact h.rowCommand hwork
  | nop => exact h.finish
  | palclr => exact h.clearPalette.finish
  | genramp hi => exact (h.writePalette _ (length_rampEntries_le hi)).finish

theorem State.Inv.engineStep {t : State} (he : s.engineStep = .next t) : t.Inv := by
  rcases engineStep_cases he with ⟨i, _, hx⟩ | ⟨c, _, hc, rfl⟩
  · obtain ⟨f, hf, rfl⟩ := meaning_of_exec hx
    exact hf.keeps_inv h
  · exact h.finishError (by rcases hc with rfl | rfl <;> decide)

end

/-- The locations that a write reaches are inside the bounds of the memories. -/
theorem inRange_of_hostWrites {s : State} {l : Loc} {v : Word} (hw : HostWrites s l v) : l.InRange := by
  obtain ⟨_, _, ht⟩ := hw
  exact target_inRange ht

theorem StepEffect.keeps_inv {s t : State} (hs : s.Inv) (h : StepEffect s t) : t.Inv := by
  cases h with
  | quiet e => exact hs.withEnv e
  | accept e | enables e | width e => exact hs.of_same rfl rfl rfl rfl rfl rfl rfl rfl rfl
  | overrun e => exact (hs.recordError (by decide)).withEnv e
  | clear e => exact (hs.clearStatus _).withEnv e
  | palette e hw => exact (hs.writePalWord _ _ (inRange_of_hostWrites hw)).withEnv e
  | rowWord e hw => exact (hs.writeRowWord _ _ (inRange_of_hostWrites hw)).withEnv e
  | pixWord e hw => exact (hs.writePixWord _ _ (inRange_of_hostWrites hw)).withEnv e
  | softReset e => exact hs.softReset.withEnv e
  | hardReset e => exact (State.inv_hardReset s).withEnv e
  | engine _ he => exact State.Inv.engineStep (hs.withEnv _) he

/-! ### When a flag moves -/

/-- A flag that stays, or rises with `P`, or falls with `Q`, rises only with `P` and falls only with `Q`. -/
theorem rises_and_falls {a b : Bool} {P Q : Prop} (h : b = a ∨ (b = true ∧ P) ∨ (b = false ∧ Q)) :
    (a = false → b = true → P) ∧ (a = true → b = false → Q) := by
  rcases h with rfl | ⟨rfl, hp⟩ | ⟨rfl, hq⟩
  · exact ⟨fun h0 h1 => by simp [h0] at h1, fun h1 h0 => by simp [h1] at h0⟩
  · exact ⟨fun _ _ => hp, fun _ h0 => by simp at h0⟩
  · exact ⟨fun _ h1 => by simp at h1, fun _ _ => hq⟩

theorem StepEffect.busy_moves {s t : State} (h : StepEffect s t) :
    t.busy = s.busy ∨ (t.busy = true ∧ ∃ v, HostWrites s .cmd v ∧ t.cmd = v) ∨
      (t.busy = false ∧ (EngineMoves s ∨ Resets s)) := by
  cases h with
  | accept e hw => exact .inr (.inl ⟨rfl, _, hw, rfl⟩)
  | overrun e => exact .inl (State.recordError_busy s _)
  | softReset e hr | hardReset e hr => exact .inr (.inr ⟨rfl, .inr hr⟩)
  | engine hm he => exact .inr (.inr ⟨(engineStep_completes he).1, .inl hm⟩)
  | _ => exact .inl rfl

theorem StepEffect.done_moves {s t : State} (h : StepEffect s t) :
    t.done = s.done ∨ (t.done = true ∧ EngineMoves s) ∨
      (t.done = false ∧ ((∃ v, HostWrites s .status v ∧ v.getLsbD 1 = true) ∨ Resets s)) := by
  cases h with
  | overrun e => exact .inl (State.recordError_done s _)
  | @clear v e hw =>
    cases hv : v.getLsbD 1 with
    | true => exact .inr (.inr ⟨clearStatus_done_clear s hv, .inl ⟨v, hw, hv⟩⟩)
    | false => exact .inl (clearStatus_done_keep s hv)
  | softReset e hr | hardReset e hr => exact .inr (.inr ⟨rfl, .inr hr⟩)
  | engine hm he => exact .inr (.inl ⟨(engineStep_completes he).2, hm⟩)
  | _ => exact .inl rfl

/-- A write to STATUS with bit 1 set leaves DONE 0. -/
theorem step_status_clears_done {s t : State} {v : Word} (hw : HostWrites s .status v) (hv : v.getLsbD 1 = true)
    (h : step s = .next t) : t.done = false := by
  rw [step_hostWrites hw] at h
  cases h
  exact clearStatus_done_clear _ hv

/-- What a step that resets leaves. -/
theorem step_resets {s t : State} (hr : Resets s) (h : step s = .next t) :
    ∃ e, t = { s.softReset with env := e } ∨ t = { s.hardReset with env := e } := by
  rcases hr with ht | ⟨v, hw, hv⟩
  · rw [step_reset ht] at h
    cases h
    exact ⟨_, .inr rfl⟩
  · rw [step_hostWrites hw, State.writeLoc, writeCtrl_set _ hv] at h
    cases h
    exact ⟨_, .inl rfl⟩

theorem step_resets_done {s t : State} (hr : Resets s) (h : step s = .next t) : t.done = false := by
  obtain ⟨e, rfl | rfl⟩ := step_resets hr h <;> rfl

/-! ### When the recorded error is cleared -/

theorem RecordsAtMost.keeps {s t : State} (h : RecordsAtMost s t) (hs : s.err = true) :
    t.err = true ∧ t.errCode = s.errCode := by
  rcases h with ⟨he, hc⟩ | ⟨c, _, he, hc⟩
  · exact ⟨he.trans hs, hc⟩
  · exact ⟨he, by rw [hc, if_pos hs]⟩

theorem recordError_of_err {s : State} (c : ErrCode) (h : s.err = true) : s.recordError c = s := if_pos h

theorem StepEffect.keeps_error {s t : State} (h : StepEffect s t) (hs : s.err = true) :
    (t.err = true ∧ t.errCode = s.errCode) ∨ (∃ v, HostWrites s .status v ∧ v.getLsbD 2 = true) ∨ Resets s := by
  cases h with
  | overrun e => rw [recordError_of_err _ hs]; exact .inl ⟨hs, rfl⟩
  | @clear v e hw =>
    cases hv : v.getLsbD 2 with
    | true => exact .inr (.inl ⟨v, hw, hv⟩)
    | false =>
      obtain ⟨he, hc⟩ := clearStatus_err_keep s hv
      exact .inl ⟨he.trans hs, hc⟩
  | softReset e hr | hardReset e hr => exact .inr (.inr hr)
  | engine _ he => exact .inl ((engineStep_recordsAtMost he).keeps hs)
  | _ => exact .inl ⟨hs, rfl⟩

/-! ### When CMD and W_SNAP change -/

theorem StepEffect.pending_changes {s t : State} (h : StepEffect s t) :
    (t.cmd = s.cmd ∧ t.wSnap = s.wSnap) ∨
      (s.busy = false ∧ ∃ v, HostWrites s .cmd v ∧ t.cmd = v ∧ t.wSnap = s.width) ∨ Resets s := by
  cases h with
  | accept e hw hb => exact .inr (.inl ⟨hb, _, hw, rfl, rfl⟩)
  | overrun e => exact .inl ⟨State.recordError_cmd s _, State.recordError_wSnap s _⟩
  | softReset e hr | hardReset e hr => exact .inr (.inr hr)
  | engine _ he => exact .inl ⟨(engineStep_keepsControl he).cmd, (engineStep_keepsControl he).wSnap⟩
  | _ => exact .inl ⟨rfl, rfl⟩

/-! ### When the geometry registers change -/

theorem sameGeometry_recordError (s : State) (c : ErrCode) : SameGeometry s (s.recordError c) :=
  ⟨State.recordError_rowData s c, State.recordError_rowPad s c, State.recordError_rowStride s c⟩

theorem Meaning.geometry_changes {i : Instr} {f : State → State} (hf : Meaning i f) (s : State) :
    SameGeometry s (f s) ∨ (i ∈ rowCommands ∧ s.w ≤ maxWidth) := by
  cases hf with
  | @row _ bc work hi _ =>
    rcases Nat.lt_or_ge maxWidth s.w with hw | hw
    · rw [rowCommand_wide bc work hw]
      exact .inl (sameGeometry_recordError s _)
    · exact .inr ⟨hi, hw⟩
  | nop | genramp _ | palclr => exact .inl ⟨rfl, rfl, rfl⟩

theorem StepEffect.geometry_changes {s t : State} (h : StepEffect s t) :
    SameGeometry s t ∨ ((∃ i, i ∈ rowCommands ∧ Executes s i) ∧ s.w ≤ maxWidth) ∨ Resets s := by
  cases h with
  | overrun e => exact .inl (sameGeometry_recordError s _)
  | softReset e hr | hardReset e hr => exact .inr (.inr hr)
  | engine hm he =>
    rcases engineStep_cases he with ⟨i, hd, hx⟩ | ⟨c, _, _, rfl⟩
    · obtain ⟨f, hf, rfl⟩ := meaning_of_exec hx
      rcases hf.geometry_changes s.nextTurn with hg | ⟨hi, hw⟩
      · exact .inl hg
      · exact .inr (.inl ⟨⟨i, hi, hm, hd⟩, hw⟩)
    · exact .inl (sameGeometry_recordError s.nextTurn c)
  | _ => exact .inl ⟨rfl, rfl, rfl⟩

/-! ### When a valid flag moves -/

theorem RowWork.keeps_pv {bc : BitCount} {work : State → State} (hwork : RowWork bc work) (s : State) :
    (work s).pv = s.pv := by
  cases hwork with
  | size | unpackDirect | packDirect => rfl
  | unpackIndexed => rcases unpackIndexed_cases s _ with ⟨_, ho⟩ | ⟨_, ho⟩ <;> rw [ho] <;> simp
  | packIndexed => rcases packIndexed_cases s bc _ with ⟨_, _, _, ho⟩ | ⟨_, ho⟩ <;> rw [ho] <;> simp

theorem rowCommand_keeps_pv {bc : BitCount} {work : State → State} (hwork : RowWork bc work) (s : State) :
    (s.rowCommand bc work).pv = s.pv := by
  rcases Nat.lt_or_ge maxWidth s.w with hw | hw
  · rw [rowCommand_wide bc work hw]
    exact State.recordError_pv s _
  · rw [rowCommand_ok bc work hw]
    exact hwork.keeps_pv (s.setGeometry bc)

theorem valid_congr {s t : State} (h : t.pv = s.pv) (k : Nat) : t.valid k = s.valid k := by
  unfold State.valid; rw [h]

theorem valid_genramp {i : Instr} {bc : BitCount} (hi : (i, bc) ∈ rampCommands) (s : State) (k : Nat) :
    (s.genramp bc).valid k = (s.valid k || decide (k < 2 ^ bc.toNat)) := by
  unfold State.genramp
  rw [valid_writePalette _ _ (length_rampEntries_le hi), List.length_map, List.length_range]

/-- A command moves a valid flag only if it is a GENRAMP that covers it or PALCLR. -/
theorem Meaning.valid_moves {i : Instr} {f : State → State} (hf : Meaning i f) (s : State) (k : Nat) :
    (f s).valid k = s.valid k ∨
      ((f s).valid k = true ∧ ∃ bc, (i, bc) ∈ rampCommands ∧ k < 2 ^ bc.toNat) ∨
      ((f s).valid k = false ∧ i = .palclr) := by
  cases hf with
  | row _ hwork => exact .inl (valid_congr (rowCommand_keeps_pv hwork s) k)
  | nop => exact .inl rfl
  | palclr => exact .inr (.inr ⟨valid_clearPalette s k, rfl⟩)
  | @genramp _ bc hi =>
    have hv := valid_genramp hi s k
    by_cases hk : k < 2 ^ bc.toNat
    · exact .inr (.inl ⟨hv.trans (by simp [hk]), bc, hi, hk⟩)
    · exact .inl (hv.trans (by simp [hk]))

/-- The GENRAMP commands one by one. -/
theorem executes_genramp {s : State} {i : Instr} {bc : BitCount} {k : Nat} (hx : Executes s i)
    (hi : (i, bc) ∈ rampCommands) (hk : k < 2 ^ bc.toNat) :
    (Executes s .genramp1 ∧ k < 2) ∨ (Executes s .genramp4 ∧ k < 16) ∨ (Executes s .genramp8 ∧ k < 256) := by
  simp only [rampCommands, List.mem_cons, Prod.mk.injEq, List.not_mem_nil, or_false] at hi
  rcases hi with ⟨rfl, rfl⟩ | ⟨rfl, rfl⟩ | ⟨rfl, rfl⟩
  · exact .inl ⟨hx, hk⟩
  · exact .inr (.inl ⟨hx, hk⟩)
  · exact .inr (.inr ⟨hx, hk⟩)

theorem StepEffect.valid_moves {s t : State} (h : StepEffect s t) (k : Nat) :
    t.valid k = s.valid k ∨
      (t.valid k = true ∧ ((∃ v, HostWrites s (.palette k) v) ∨ (Executes s .genramp1 ∧ k < 2) ∨
        (Executes s .genramp4 ∧ k < 16) ∨ (Executes s .genramp8 ∧ k < 256))) ∨
      (t.valid k = false ∧ (Executes s .palclr ∨ Resets s)) := by
  cases h with
  | overrun e => exact .inl (State.recordError_valid s _ k)
  | @palette j v e hw =>
    have hv := valid_writePalWord s j v k
    by_cases hk : k < 256 ∧ j = k
    · obtain ⟨h256, rfl⟩ := hk
      exact .inr (.inl ⟨hv.trans (by simp [h256]), .inl ⟨v, hw⟩⟩)
    · exact .inl (hv.trans (by simp [hk]))
  | softReset e hr => exact .inr (.inr ⟨valid_softReset s k, .inr hr⟩)
  | hardReset e hr => exact .inr (.inr ⟨valid_hardReset s k, .inr hr⟩)
  | engine hm he =>
    rcases engineStep_cases he with ⟨i, hd, hx⟩ | ⟨c, _, _, rfl⟩
    · obtain ⟨f, hf, rfl⟩ := meaning_of_exec hx
      rcases hf.valid_moves s.nextTurn k with hv | ⟨hv, bc, hi, hk⟩ | ⟨hv, rfl⟩
      · exact .inl hv
      · exact .inr (.inl ⟨hv, .inr (executes_genramp ⟨hm, hd⟩ hi hk)⟩)
      · exact .inr (.inr ⟨hv, .inl ⟨hm, hd⟩⟩)
    · exact .inl (State.recordError_valid s.nextTurn c k)
  | _ => exact .inl rfl

/-! ### Two runs that no invalid entry and no reserved byte can tell apart -/

/-- Two states that agree on everything a command reads: the palette's valid flags and the valid entries' colours, and
the rest in full. -/
structure Alike (s s' : State) : Prop where
  operands : SameOperands s s'
  geometry : SameGeometry s s'
  rowbuf : SameRowbuf s s'
  pixbuf : SamePixbuf s s'
  pv : s'.pv = s.pv
  colour : ∀ k, s.valid k = true → (s'.palEntry k).colour = (s.palEntry k).colour

section
variable {s s' : State} (h : Alike s s')
include h

theorem Alike.w : s'.w = s.w := by unfold State.w; rw [h.operands.1]

theorem Alike.finish : Alike s.finish s'.finish := ⟨h.operands, h.geometry, h.rowbuf, h.pixbuf, h.pv, h.colour⟩

theorem Alike.recordError (c : ErrCode) : Alike (s.recordError c) (s'.recordError c) := by
  obtain ⟨hw, he, hc⟩ := h.operands
  unfold State.recordError
  rw [he]
  split
  · exact h
  · exact ⟨⟨hw, rfl, rfl⟩, h.geometry, h.rowbuf, h.pixbuf, h.pv, h.colour⟩

theorem Alike.setGeometry (bc : BitCount) : Alike (s.setGeometry bc) (s'.setGeometry bc) :=
  { operands := h.operands, rowbuf := h.rowbuf, pixbuf := h.pixbuf, pv := h.pv, colour := h.colour
    geometry := by simp [SameGeometry, h.w] }

theorem Alike.writePixels (ps : List Pixel) : Alike (s.writePixels ps) (s'.writePixels ps) :=
  { operands := h.operands, geometry := h.geometry, rowbuf := h.rowbuf, pv := h.pv, colour := h.colour
    pixbuf := fun i => by rw [pixel_writePixels, pixel_writePixels, h.pixbuf i] }

theorem Alike.writeStoredRow (bc : BitCount) (data : List Byte) :
    Alike (s.writeStoredRow bc data) (s'.writeStoredRow bc data) :=
  { operands := h.operands, geometry := h.geometry, pixbuf := h.pixbuf, pv := h.pv, colour := h.colour
    rowbuf := fun i => by
      unfold State.writeStoredRow
      rw [rowByte_writeRowFrom, rowByte_writeRowFrom, h.rowbuf i, h.w] }

theorem Alike.writePalette (es : List PalEntry) (hes : es.length ≤ 256) :
    Alike (s.writePalette es) (s'.writePalette es) :=
  { operands := h.operands, geometry := h.geometry, rowbuf := h.rowbuf, pixbuf := h.pixbuf
    pv := by rw [State.writePalette_pv, State.writePalette_pv, h.pv]
    colour := fun k hk => by
      rw [palEntry_writePalette, palEntry_writePalette]
      by_cases hl : k < es.length
      · rw [List.getElem?_eq_getElem hl]; rfl
      · rw [List.getElem?_eq_none (by omega)]
        rw [valid_writePalette s es hes] at hk
        exact h.colour k (by simpa [hl] using hk) }

theorem Alike.clearPalette : Alike s.clearPalette s'.clearPalette :=
  { operands := h.operands, geometry := h.geometry, rowbuf := h.rowbuf, pixbuf := h.pixbuf, pv := rfl
    colour := fun k hk => by simp at hk }

theorem Alike.unpackIndexed {index : State → Nat → Byte}
    (hindex : ∀ s s' x, SameRowbuf s s' → index s' x = index s x) :
    Alike (s.unpackIndexed index) (s'.unpackIndexed index) := by
  have hrun : forPixels (fun x => lookupUnpack s' (index s' x)) s'.w =
      forPixels (fun x => lookupUnpack s (index s x)) s.w := by
    rw [h.w]
    exact forPixels_congr fun x _ => lookupUnpack_congr (hindex s s' x h.rowbuf) h.pv h.colour
  unfold State.unpackIndexed
  rw [hrun]
  split
  · exact h.recordError _
  · exact h.writePixels _

theorem Alike.packIndexed (bc : BitCount) (byteAt : Nat → List Byte → Nat → Byte) :
    Alike (s.packIndexed bc byteAt) (s'.packIndexed bc byteAt) := by
  have hrun : forPixels (fun x => lookupPack s' bc (s'.pixel x)) s'.w =
      forPixels (fun x => lookupPack s bc (s.pixel x)) s.w := by
    rw [h.w]
    exact forPixels_congr fun x _ => lookupPack_congr (h.pixbuf x) h.pv h.colour
  unfold State.packIndexed
  rw [hrun, h.w]
  split
  · exact h.recordError _
  · exact h.writeStoredRow bc _

theorem Alike.unpackDirect (n : Nat) : Alike (s.unpackDirect n) (s'.unpackDirect n) := by
  have hrow : directPixel s' n = directPixel s n := funext fun x => directPixel_congr s s' n x h.rowbuf
  unfold State.unpackDirect
  rw [hrow, h.w]
  exact h.writePixels _

theorem Alike.packDirect (bc : BitCount) (bytesOf : Pixel → List Byte) :
    Alike (s.packDirect bc bytesOf) (s'.packDirect bc bytesOf) := by
  have hpix : s'.pixel = s.pixel := funext h.pixbuf
  unfold State.packDirect
  rw [hpix, h.w]
  exact h.writeStoredRow bc _

theorem RowWork.keeps_alike {bc : BitCount} {work : State → State} (hwork : RowWork bc work) :
    Alike (work s) (work s') := by
  cases hwork with
  | size => exact h
  | unpackIndexed hindex => exact h.unpackIndexed hindex
  | unpackDirect => exact h.unpackDirect _
  | packIndexed => exact h.packIndexed bc _
  | packDirect => exact h.packDirect bc _

theorem Alike.rowCommand {bc : BitCount} {work : State → State} (hwork : RowWork bc work) :
    Alike (s.rowCommand bc work) (s'.rowCommand bc work) := by
  rcases Nat.lt_or_ge maxWidth s.w with hw | hw
  · rw [rowCommand_wide bc work hw, rowCommand_wide bc work (h.w ▸ hw)]
    exact (h.recordError _).finish
  · rw [rowCommand_ok bc work hw, rowCommand_ok bc work (h.w ▸ hw)]
    exact (RowWork.keeps_alike (h.setGeometry bc) hwork).finish

theorem Meaning.keeps_alike {i : Instr} {f : State → State} (hf : Meaning i f) : Alike (f s) (f s') := by
  cases hf with
  | row _ hwork => exact h.rowCommand hwork
  | nop => exact h.finish
  | palclr => exact h.clearPalette.finish
  | genramp hi => exact (h.writePalette _ (length_rampEntries_le hi)).finish

end

/-! ### The registers on the bus -/

/-- A register is reached at any time (20_memory.md R68, R70). -/
theorem target_register (s : State) {off : Offset} {l : Loc} (ho : off.toNat < 0x400) (ha : off.toNat % 4 = 0)
    (hl : registerAt (off.toNat / 4) = some l) : s.target off 4 = some l :=
  target_eq_some.mpr ⟨rfl, ha, (if_pos ho).trans hl, fun _ => (registerAt_inRange hl).2⟩

theorem target_palValid (s : State) {j : Nat} (hj : j < 8) :
    s.target (BitVec.ofNat 18 (0x20 + 4 * j)) 4 = some (.palValid j) := by
  have ho : (BitVec.ofNat 18 (0x20 + 4 * j)).toNat = 4 * (j + 8) := by
    rw [BitVec.toNat_ofNat]; omega
  refine target_register s (by omega) (by omega) ?_
  rw [ho, Nat.mul_div_cancel_left _ (by decide)]
  exact if_pos hj

/-- A word with one more bit appended below it. -/
theorem append_ofBool_toNat {n : Nat} (x : BitVec n) (b : Bool) :
    (x ++ BitVec.ofBool b).toNat = x.toNat * 2 + b.toNat :=
  BitVec.toNat_concat x b

/-- CTRL as a number (10_state.md R26). -/
theorem ctrlWord_toNat (s : State) : s.ctrlWord.toNat = s.ieDone.toNat + 2 * s.ieErr.toNat := by
  unfold State.ctrlWord
  rw [append_ofBool_toNat, append_ofBool_toNat, BitVec.toNat_ofNat]
  omega

theorem ctrlWord_disabled {s : State} (hd : s.ieDone = false) (he : s.ieErr = false) : s.ctrlWord = 0 := by
  unfold State.ctrlWord
  rw [hd, he]
  decide

/-- STATUS as a number (10_state.md R22). -/
theorem statusWord_toNat (s : State) :
    s.statusWord.toNat = s.busy.toNat + 2 * s.done.toNat + 4 * s.err.toNat + 16 * s.errCode.bits.toNat := by
  have hcode : (0#24 ++ s.errCode.bits).toNat = s.errCode.bits.toNat := by
    rw [BitVec.toNat_append]; simp
  have hzero : (0#24 ++ s.errCode.bits ++ 0#1).toNat = (0#24 ++ s.errCode.bits).toNat * 2 + 0 :=
    append_ofBool_toNat _ false
  unfold State.statusWord
  rw [append_ofBool_toNat, append_ofBool_toNat, append_ofBool_toNat, hzero, hcode]
  omega

/-- The two low bits of a word as a number. -/
theorem low_bits_toNat (v : Word) : (v.getLsbD 0).toNat + 2 * (v.getLsbD 1).toNat = v.toNat % 4 := by
  have h0 : (v.getLsbD 0).toNat = v.toNat / 2 ^ 0 % 2 := Nat.toNat_testBit v.toNat 0
  have h1 : (v.getLsbD 1).toNat = v.toNat / 2 ^ 1 % 2 := Nat.toNat_testBit v.toNat 1
  omega

theorem param_toNat (s : State) : (s.readLoc .param).toNat = maxWidth := by
  have hle := maxWidth_le
  show (BitVec.ofNat 32 maxWidth).toNat = maxWidth
  rw [BitVec.toNat_ofNat]
  omega

/-- PALVALIDj shows the valid flags 32·j to 32·j + 31 (10_state.md R32). -/
theorem palValidWord_getLsbD (s : State) (j : Nat) {k : Nat} (hk : k < 32) :
    (s.palValidWord j).getLsbD k = s.valid (32 * j + k) := by
  unfold State.palValidWord State.valid
  rw [BitVec.getLsbD_extractLsb', decide_eq_true hk, Bool.true_and]

/-! ### The host's writes to the registers, step by step -/

section
variable {s : State} {v : Word}

theorem step_write_cmd_idle (hw : HostWrites s .cmd v) (hb : s.busy = false) :
    step s = .next ((s.nextTurn.acceptCommand v).respond s.env.program.tail .writeOk) := by
  rw [step_hostWrites hw, State.writeLoc, writeCmd_idle v (s := s.nextTurn) hb]

theorem step_write_ctrl_enables (hw : HostWrites s .ctrl v) (hv : v.getLsbD 31 = false) :
    step s = .next (State.respond s.env.program.tail .writeOk
      { s.nextTurn with ieDone := v.getLsbD 0, ieErr := v.getLsbD 1 }) := by
  rw [step_hostWrites hw, State.writeLoc, writeCtrl_clear _ hv]

theorem step_write_ctrl_reset (hw : HostWrites s .ctrl v) (hv : v.getLsbD 31 = true) :
    step s = .next (s.nextTurn.softReset.respond s.env.program.tail .writeOk) := by
  rw [step_hostWrites hw, State.writeLoc, writeCtrl_set _ hv]

/-- The registers that a write leaves as they are (10_state.md R29, R31, R32). -/
theorem writeLoc_readOnly {l : Loc}
    (hl : l = .rowData ∨ l = .rowPad ∨ l = .rowStride ∨ l = .param ∨ ∃ j, l = .palValid j) : s.writeLoc v l = s := by
  rcases hl with rfl | rfl | rfl | rfl | ⟨j, rfl⟩ <;> rfl

end

/-- Only the environment differs after the use of a turn and a response. -/
theorem sameBlock_respond (s : State) (p : List HostOp) (r : BusResponse) : SameBlock s (s.nextTurn.respond p r) :=
  ⟨rfl, rfl, rfl, rfl, rfl, ⟨rfl, rfl, rfl, rfl⟩, ⟨rfl, rfl, rfl⟩, ⟨rfl, fun _ => rfl⟩, fun _ => rfl, fun _ => rfl⟩

/-- A state with the same lists, valid flags and reset count holds the same memories. -/
theorem sameMemories_of_eq {s t : State} (hpv : t.pv = s.pv) (hpal : t.pal = s.pal) (hrow : t.rowbuf = s.rowbuf)
    (hpix : t.pixbuf = s.pixbuf) (hres : t.resets = s.resets) : SameMemories s t := by
  refine ⟨⟨hpv, fun k => ?_⟩, fun j => ?_, fun i => ?_⟩
  · unfold State.palEntry; rw [hpal, hres]
  · unfold State.rowByte; rw [hrow, hres]
  · unfold State.pixel; rw [hpix, hres]

end Sys2Proof.Machine

namespace Sys2Proof.Proofs

open Sys2Proof.Machine Sys2Proof.Claims

/-- Settles O14: by the kinds of step, and for a command by the shape of its meaning. -/
theorem everyStepKeepsInvariant : Obligations.EveryStepKeepsInvariant :=
  fun _ _ hs h => (step_effect h).keeps_inv hs

/-- Settles O33: what a command reads of two such states is the same, and so is what it leaves of it. -/
theorem invalidEntriesNeverUsed : Obligations.InvalidEntriesNeverUsed := by
  intro i s s' hop hg hrow hpix hpv hcol
  obtain ⟨f, hf, hex⟩ := exec_meaning i
  have ha : Alike (f s) (f s') := hf.keeps_alike ⟨hop, hg, hrow, hpix, hpv, hcol⟩
  obtain ⟨hb, hd⟩ := exec_completes (hex s)
  obtain ⟨hb', hd'⟩ := exec_completes (hex s')
  obtain ⟨_, herr, hcode⟩ := ha.operands
  exact ⟨f s, f s', hex s, hex s', ha.pixbuf, ha.rowbuf, ⟨hb'.trans hb.symm, hd'.trans hd.symm, herr, hcode⟩,
    ha.geometry, ha.pv⟩

/-- Settles O35: an ENGINE step or an overrun keeps the first error, and only STATUS bit 2 and a reset clear it. -/
theorem errorStaysUntilCleared : Obligations.ErrorStaysUntilCleared :=
  fun _ _ h hs => (step_effect h).keeps_error hs

/-- Settles O37: of the kinds of step, an accepted write raises BUSY, and an ENGINE step and a reset lower it. -/
theorem busyRisesAndFalls : Obligations.BusyRisesAndFalls :=
  fun _ _ h => rises_and_falls (step_effect h).busy_moves

/-- Settles O38: the rises and falls by the kinds of step, and each event's own effect on DONE. -/
theorem doneRisesAndFalls : Obligations.DoneRisesAndFalls := by
  intro s t h
  obtain ⟨hrise, hfall⟩ := rises_and_falls (step_effect h).done_moves
  refine ⟨fun hm => (step_engine_completes hm h).2, hrise, ?_, hfall⟩
  rintro (⟨v, hw, hv⟩ | hr)
  · exact step_status_clears_done hw hv h
  · exact step_resets_done hr h

/-- Settles O39: by the kinds of step, and for a command by the shape of its meaning. -/
theorem validFlagsRiseAndFall : Obligations.ValidFlagsRiseAndFall :=
  fun _ _ k h => rises_and_falls ((step_effect h).valid_moves k)

/-- Settles O40: only a row command that passes the width check sets the geometry. -/
theorem geometryChangesOnlyByRowCommands : Obligations.GeometryChangesOnlyByRowCommands :=
  fun _ _ h => (step_effect h).geometry_changes

/-- Settles O41: every command keeps CMD and W_SNAP, and a write while busy only records an error. -/
theorem pendingCommandIsFixed : Obligations.PendingCommandIsFixed :=
  fun _ _ h => (step_effect h).pending_changes

/-- Settles O11: the ENGINE's turn does not touch CMD, so the word it decodes is the pending one. -/
theorem stepRunsDecodedCommand : Obligations.StepRunsDecodedCommand := by
  intro s i hm hd
  obtain ⟨ht, hb⟩ := hm
  rw [step_engine ht hb]
  unfold State.engineStep
  rw [State.nextTurn_cmd, hd]

/-- Settles O15: every field of the invariant is as a hardware reset leaves it. -/
theorem resetMeetsInvariant : Obligations.ResetMeetsInvariant :=
  (State.inv_hardReset State.reset).of_same rfl rfl rfl rfl rfl rfl rfl rfl rfl

/-- Settles O43: the step is `acceptCommand`, whose fields are read off. -/
theorem cmdWriteIsAccepted : Obligations.CmdWriteIsAccepted := by
  refine ⟨fun s => ⟨target_register s (by decide) (by decide) rfl, rfl⟩, rfl, fun s v hw hb => ?_⟩
  exact ⟨_, step_write_cmd_idle hw hb, rfl, rfl, rfl, rfl, rfl, rfl, rfl, rfl, rfl, ⟨rfl, rfl, rfl⟩,
    sameMemories_of_eq rfl rfl rfl rfl rfl, rfl⟩

/-- Settles O45: STATUS as a number, and the step is `clearStatus`, whose fields are read off. -/
theorem statusWriteOneToClear : Obligations.StatusWriteOneToClear := by
  refine ⟨fun s => ⟨target_register s (by decide) (by decide) rfl, statusWord_toNat s⟩, by decide, by decide,
    fun s v hw => ?_⟩
  exact ⟨_, step_hostWrites hw, rfl, rfl, rfl, rfl, rfl, rfl, rfl, rfl, rfl, ⟨rfl, rfl, rfl⟩,
    sameMemories_of_eq rfl rfl rfl rfl rfl⟩

/-- Settles O46: CTRL as a number, and the two cases of bit 31. -/
theorem ctrlSetsEnables : Obligations.CtrlSetsEnables := by
  refine ⟨fun s => ⟨target_register s (by decide) (by decide) rfl, ctrlWord_toNat s⟩, by decide, fun s v hw hv => ?_,
    fun s v hw hv => ?_⟩
  · exact ⟨_, step_write_ctrl_enables hw hv, rfl, rfl, (ctrlWord_toNat _).trans (low_bits_toNat v), rfl, rfl, rfl,
      ⟨rfl, rfl, rfl, rfl⟩, ⟨rfl, rfl, rfl⟩, sameMemories_of_eq rfl rfl rfl rfl rfl⟩
  · exact ⟨_, _, step_write_ctrl_reset hw hv, ctrlWord_disabled rfl rfl⟩

/-- Settles O47: the write sets WIDTH alone. -/
theorem widthHoldsAnyValue : Obligations.WidthHoldsAnyValue := by
  refine ⟨fun s => ⟨target_register s (by decide) (by decide) rfl, rfl⟩, rfl, fun s v hw => ?_⟩
  exact ⟨_, step_hostWrites hw, rfl, rfl, rfl, rfl, rfl, rfl, ⟨rfl, rfl, rfl, rfl⟩, ⟨rfl, rfl, rfl⟩,
    sameMemories_of_eq rfl rfl rfl rfl rfl⟩

/-- Settles O48: the ignored writes change no location, and PALVALIDj is a slice of the valid flags. -/
theorem readOnlyRegisters : Obligations.ReadOnlyRegisters := by
  refine ⟨fun s l v hl hw => ?_, fun s => ?_, fun s j hj => ⟨target_palValid s hj, ?_⟩, fun s j k _ hk => ?_⟩
  · refine ⟨_, step_hostWrites hw, ?_, fun _ => rfl⟩
    rw [writeLoc_readOnly hl]
    exact sameBlock_respond s _ _
  · exact ⟨target_register s (by decide) (by decide) rfl, param_toNat s, maxWidth_pos, maxWidth_le⟩
  · exact BitVec.extractLsb'_zero
  · exact palValidWord_getLsbD s j hk

end Sys2Proof.Proofs
end

-- Proofs of the family 20_memory.md: the address map, BusError, and the three windows.
section
namespace Sys2Proof.Machine

open Sys2Proof.Claims

/-! ### The address map, range by range (20_memory.md R68, R69) -/

section
variable {o : Nat}

theorem locationAt_register (h : o < 0x400) : locationAt o = registerAt (o / 4) := if_pos h

theorem locationAt_palette (h : 0x400 ≤ o) (h' : o < 0x800) : locationAt o = some (.palette ((o - 0x400) / 4)) := by
  unfold locationAt
  rw [if_neg (by omega), if_pos h']

theorem locationAt_reserved (h : 0x800 ≤ o) (h' : o < 0x10000) : locationAt o = none := by
  unfold locationAt
  rw [if_neg (by omega), if_neg (by omega), if_pos h']

theorem locationAt_rowWord (h : 0x10000 ≤ o) (h' : o < 0x20000) :
    locationAt o = if (o - 0x10000) / 4 < maxWidth then some (.rowWord ((o - 0x10000) / 4)) else none := by
  unfold locationAt
  rw [if_neg (by omega), if_neg (by omega), if_neg (by omega), if_pos h']

theorem locationAt_pixWord (h : 0x20000 ≤ o) (h' : o < 0x30000) :
    locationAt o = if (o - 0x20000) / 4 < maxWidth then some (.pixWord ((o - 0x20000) / 4)) else none := by
  unfold locationAt
  rw [if_neg (by omega), if_neg (by omega), if_neg (by omega), if_neg (by omega), if_pos h']

theorem locationAt_beyond (h : 0x30000 ≤ o) : locationAt o = none := by
  unfold locationAt
  rw [if_neg (by omega), if_neg (by omega), if_neg (by omega), if_neg (by omega), if_neg (by omega)]

/-- The ranges of the map cover every offset. -/
theorem offset_ranges (o : Nat) :
    o < 0x400 ∨ (0x400 ≤ o ∧ o < 0x800) ∨ (0x800 ≤ o ∧ o < 0x10000) ∨ (0x10000 ≤ o ∧ o < 0x20000) ∨
      (0x20000 ≤ o ∧ o < 0x30000) ∨ 0x30000 ≤ o := by omega

/-- The register block has sixteen registers. -/
theorem registerAt_eq_none {n : Nat} : registerAt n = none ↔ 16 ≤ n := by
  unfold registerAt
  split
  case h_9 k =>
    rw [ite_eq_right_iff]; simp only [reduceCtorEq, imp_false]; omega
  all_goals simp

/-- Exactly which offsets of the register space the map does not name. -/
theorem locationAt_eq_none (ho : o < 0x30000) :
    locationAt o = none ↔ (0x40 ≤ o ∧ o < 0x400) ∨ (0x800 ≤ o ∧ o < 0x10000) ∨
      (0x10000 + 4 * maxWidth ≤ o ∧ o < 0x20000) ∨ 0x20000 + 4 * maxWidth ≤ o := by
  have hpos := maxWidth_pos
  rcases offset_ranges o with h | ⟨h, h'⟩ | ⟨h, h'⟩ | ⟨h, h'⟩ | ⟨h, h'⟩ | h
  · rw [locationAt_register h, registerAt_eq_none]; omega
  · rw [locationAt_palette h h']; simp only [reduceCtorEq, false_iff]; omega
  · rw [locationAt_reserved h h']; simp only [true_iff]; omega
  · rw [locationAt_rowWord h h', ite_eq_right_iff]; simp only [reduceCtorEq, imp_false]; omega
  · rw [locationAt_pixWord h h', ite_eq_right_iff]; simp only [reduceCtorEq, imp_false]; omega
  · omega

/-- The windows begin at 0x400, above the register block. -/
theorem isWindow_of_locationAt {l : Loc} (hl : locationAt o = some l) : l.isWindow = true ↔ 0x400 ≤ o := by
  rcases offset_ranges o with h | ⟨h, h'⟩ | ⟨h, h'⟩ | ⟨h, h'⟩ | ⟨h, h'⟩ | h
  · rw [locationAt_register h] at hl
    simp only [(registerAt_inRange hl).2, Bool.false_eq_true, false_iff]
    omega
  · rw [locationAt_palette h h'] at hl
    cases hl
    exact iff_of_true rfl h
  · rw [locationAt_reserved h h'] at hl
    cases hl
  · rw [locationAt_rowWord h h'] at hl
    obtain ⟨_, ⟨⟩⟩ := Option.ite_none_right_eq_some.mp hl
    exact iff_of_true rfl (by omega)
  · rw [locationAt_pixWord h h'] at hl
    obtain ⟨_, ⟨⟩⟩ := Option.ite_none_right_eq_some.mp hl
    exact iff_of_true rfl (by omega)
  · rw [locationAt_beyond h] at hl
    cases hl

end

/-! ### What an access reaches -/

/-- Exactly which accesses reach nothing (20_memory.md R61, R62, R69, R70). -/
theorem target_eq_none {s : State} {off : Offset} {bytes : Nat} :
    s.target off bytes = none ↔
      bytes ≠ 4 ∨ off.toNat % 4 ≠ 0 ∨ locationAt off.toNat = none ∨ (s.busy = true ∧ 0x400 ≤ off.toNat) := by
  rw [Option.eq_none_iff_forall_ne_some]
  constructor
  · intro h
    by_contra hc
    push Not at hc
    obtain ⟨h4, ha, hl, hreg⟩ := hc
    obtain ⟨l, hl⟩ := Option.ne_none_iff_exists'.mp hl
    refine h l (target_eq_some.mpr ⟨h4, ha, hl, fun hb => ?_⟩)
    rw [← Bool.not_eq_true, isWindow_of_locationAt hl, not_le]
    exact hreg hb
  · intro h l ht
    obtain ⟨h4, ha, hl, hw⟩ := target_eq_some.mp ht
    rcases h with h | h | h | ⟨hb, ho⟩
    · exact h h4
    · exact h ha
    · rw [hl] at h; cases h
    · cases ((isWindow_of_locationAt hl).mpr ho).symm.trans (hw hb)

/-- While no command is pending, an aligned word access reaches what the map names. -/
theorem target_idle {s : State} {off : Offset} (hb : s.busy = false) (ha : off.toNat % 4 = 0) :
    s.target off 4 = locationAt off.toNat := by
  refine Option.ext fun l => ?_
  simp [target_eq_some, hb, ha]

/-- Word `k` from an aligned base, inside the 18 bits of an offset. -/
theorem target_word_idle {s : State} {base k : Nat} (hb : s.busy = false) (ha : base % 4 = 0)
    (hlt : base + 4 * k < 0x40000) : s.target (BitVec.ofNat 18 (base + 4 * k)) 4 = locationAt (base + 4 * k) := by
  have ho : (BitVec.ofNat 18 (base + 4 * k)).toNat = base + 4 * k := by
    rw [BitVec.toNat_ofNat]
    exact Nat.mod_eq_of_lt hlt
  rw [target_idle hb (by omega), ho]

theorem target_paletteWindow {s : State} {k : Nat} (hb : s.busy = false) (hk : k < 256) :
    s.target (BitVec.ofNat 18 (0x400 + 4 * k)) 4 = some (.palette k) := by
  rw [target_word_idle hb (by decide) (by omega), locationAt_palette (by omega) (by omega), Nat.add_sub_cancel_left,
    Nat.mul_div_cancel_left k (by decide)]

theorem target_rowbufWindow {s : State} {k : Nat} (hb : s.busy = false) (hk : k < 0x4000) :
    s.target (BitVec.ofNat 18 (0x10000 + 4 * k)) 4 = if k < maxWidth then some (.rowWord k) else none := by
  rw [target_word_idle hb (by decide) (by omega), locationAt_rowWord (by omega) (by omega), Nat.add_sub_cancel_left,
    Nat.mul_div_cancel_left k (by decide)]

theorem target_pixbufWindow {s : State} {i : Nat} (hb : s.busy = false) (hi : i < 0x4000) :
    s.target (BitVec.ofNat 18 (0x20000 + 4 * i)) 4 = if i < maxWidth then some (.pixWord i) else none := by
  rw [target_word_idle hb (by decide) (by omega), locationAt_pixWord (by omega) (by omega), Nat.add_sub_cancel_left,
    Nat.mul_div_cancel_left i (by decide)]

/-! ### One access on the bus -/

section
variable {s : State} {off : Offset} {bytes : Nat} {l : Loc}

theorem busRead_of_target (h : s.target off bytes = some l) : s.busRead off bytes = .readOk (s.readLoc l) := by
  unfold State.busRead; rw [h]

theorem busRead_refused (h : s.target off bytes = none) : s.busRead off bytes = .readError 0 := by
  unfold State.busRead; rw [h]

theorem busWrite_of_target (v : Word) (h : s.target off bytes = some l) :
    s.busWrite off bytes v = (s.writeLoc v l, .writeOk) := by
  unfold State.busWrite; rw [h]

theorem busWrite_refused (v : Word) (h : s.target off bytes = none) : s.busWrite off bytes v = (s, .writeError) := by
  unfold State.busWrite; rw [h]

/-- A read is answered with an error exactly when it reaches nothing (20_memory.md R63). -/
theorem busRead_isError : (s.busRead off bytes).isError = true ↔ s.target off bytes = none := by
  cases ht : s.target off bytes with
  | none => rw [busRead_refused ht]; exact iff_of_true rfl rfl
  | some l => rw [busRead_of_target ht]; simp [BusResponse.isError]

/-- Reads and writes are refused alike. -/
theorem busWrite_isError (v : Word) : (s.busWrite off bytes v).2.isError = (s.busRead off bytes).isError := by
  cases ht : s.target off bytes with
  | none => rw [busRead_refused ht, busWrite_refused v ht]; rfl
  | some l => rw [busRead_of_target ht, busWrite_of_target v ht]; rfl

/-! ### The step of an access -/

theorem program_of_hostMoves {op : HostOp} (hm : HostMoves s op) :
    s.nextTurn.env.program = op :: s.env.program.tail :=
  List.eq_cons_of_mem_head? hm.2

theorem step_read (hm : HostMoves s (.read off bytes)) :
    step s = .next (s.nextTurn.respond s.env.program.tail (s.busRead off bytes)) := by
  rw [step_host hm.1, hostStep_read (program_of_hostMoves hm), busRead_nextTurn]

theorem step_write_refused {v : Word} (hm : HostMoves s (.write off bytes v)) (ht : s.target off bytes = none) :
    step s = .next (s.nextTurn.respond s.env.program.tail .writeError) := by
  rw [step_host hm.1, hostStep_write (program_of_hostMoves hm),
    busWrite_refused (s := s.nextTurn) v ht]

/-- No write reaches a window while a command is pending (20_memory.md R70). -/
theorem isWindow_of_hostWrites_busy {v : Word} (hw : HostWrites s l v) (hb : s.busy = true) : l.isWindow = false := by
  obtain ⟨_, _, ht⟩ := hw
  exact target_busy hb ht

end

/-! ### The memories while a command is pending -/

theorem sameMemories_recordError (s : State) (c : ErrCode) : SameMemories s (s.recordError c) :=
  sameMemories_of_eq (State.recordError_pv s c) (State.recordError_pal s c) (State.recordError_rowbuf s c)
    (State.recordError_pixbuf s c) (State.recordError_resets s c)

theorem StepEffect.keeps_memories_busy {s t : State} (h : StepEffect s t) (hb : s.busy = true) (ht : s.turn = .host)
    (hr : ¬ Resets s) : SameMemories s t := by
  cases h with
  | accept _ _ hidle => rw [hb] at hidle; cases hidle
  | overrun _ _ _ => exact sameMemories_recordError s .cmdOverrun
  | palette _ hw | rowWord _ hw | pixWord _ hw => cases isWindow_of_hostWrites_busy hw hb
  | softReset _ hreset | hardReset _ hreset => exact absurd hreset hr
  | engine hm _ => rw [hm.1] at ht; cases ht
  | quiet _ | clear _ _ | enables _ _ _ | width _ _ => exact sameMemories_of_eq rfl rfl rfl rfl rfl

/-! ### A word's byte lanes (20_memory.md R64) -/

theorem byteLane_toNat (v : Word) (n : Nat) : (v.extractLsb' n 8).toNat = v.toNat / 2 ^ n % 256 := by
  rw [BitVec.extractLsb'_toNat, Nat.shiftRight_eq_div_pow]

/-- Bit `b` of byte `i` of four bytes appended, the last one being byte 0. -/
theorem append_bytes_getLsbD (byte : Nat → Byte) {i b : Nat} (hi : i < 4) (hb : b < 8) :
    (byte 3 ++ byte 2 ++ byte 1 ++ byte 0).getLsbD (8 * i + b) = (byte i).getLsbD b := by
  simp only [BitVec.getLsbD_append]
  interval_cases i
  · rw [if_pos (by omega)]; simp
  · rw [if_neg (by omega), if_pos (by omega), show 8 * 1 + b - 8 = b by omega]
  · rw [if_neg (by omega), if_neg (by omega), if_pos (by omega), show 8 * 2 + b - 8 - 8 = b by omega]
  · rw [if_neg (by omega), if_neg (by omega), if_neg (by omega), show 8 * 3 + b - 8 - 8 - 8 = b by omega]

/-! ### The ROWBUF window (20_memory.md R65) -/

theorem rowByte_writeRowWord (s : State) (k : Nat) (v : Word) {i : Nat} (hi : i < 4) :
    (s.writeRowWord k v).rowByte (4 * k + i) = v.extractLsb' (8 * i) 8 := by
  unfold State.writeRowWord
  rw [rowByte_writeRowFrom, if_pos ⟨by omega, by simpa using hi⟩, Nat.add_sub_cancel_left]
  interval_cases i <;> rfl

theorem rowByte_writeRowWord_other (s : State) (k : Nat) (v : Word) {j : Nat} (hj : j < 4 * k ∨ 4 * k + 4 ≤ j) :
    (s.writeRowWord k v).rowByte j = s.rowByte j := by
  unfold State.writeRowWord
  rw [rowByte_writeRowFrom, if_neg]
  simp only [List.length_cons, List.length_nil]
  omega

theorem readLoc_writeRowWord (s : State) (k : Nat) (v : Word) :
    (s.writeRowWord k v).readLoc (.rowWord k) = v := by
  have hlane : ∀ i, i < 4 → (s.writeRowWord k v).rowByte (4 * k + i) = v.extractLsb' (8 * i) 8 :=
    fun i hi => rowByte_writeRowWord s k v hi
  have hlow : (s.writeRowWord k v).rowByte (4 * k) = v.extractLsb' 0 8 := hlane 0 (by decide)
  rw [State.readLoc, hlane 3 (by decide), hlane 2 (by decide), hlane 1 (by decide), hlow]
  exact append_byteLanes v

/-! ### The PIXBUF window (20_memory.md R66) -/

theorem readLoc_pixWord_toNat (s : State) (i : Nat) :
    (s.readLoc (.pixWord i)).toNat =
      (s.pixel i).b.toNat + 2 ^ 8 * (s.pixel i).g.toNat + 2 ^ 16 * (s.pixel i).r.toNat :=
  append_bytes_toNat 0#8 (s.pixel i).r (s.pixel i).g (s.pixel i).b

/-- The channels are stored from bits 23 to 0; bits 31 to 24 take no part. -/
theorem pixel_writePixWord_toNat (s : State) (i : Nat) (v : Word) :
    ((s.writePixWord i v).pixel i).b.toNat = v.toNat % 256 ∧
      ((s.writePixWord i v).pixel i).g.toNat = v.toNat / 2 ^ 8 % 256 ∧
      ((s.writePixWord i v).pixel i).r.toNat = v.toNat / 2 ^ 16 % 256 := by
  rw [pixel_writePixWord, if_pos rfl]
  simp only [pixelOfBits, BitVec.extractLsb'_toNat, Nat.shiftRight_eq_div_pow]
  omega

theorem readLoc_writePixWord_toNat (s : State) (i : Nat) (v : Word) :
    ((s.writePixWord i v).readLoc (.pixWord i)).toNat = v.toNat % 2 ^ 24 := by
  obtain ⟨hb, hg, hr⟩ := pixel_writePixWord_toNat s i v
  rw [readLoc_pixWord_toNat, hb, hg, hr]
  omega

/-! ### The PALETTE window (20_memory.md R67) -/

theorem readLoc_palette_toNat (s : State) (k : Nat) :
    (s.readLoc (.palette k)).toNat =
      (s.palEntry k).b.toNat + 2 ^ 8 * (s.palEntry k).g.toNat + 2 ^ 16 * (s.palEntry k).r.toNat +
        2 ^ 24 * (s.palEntry k).rsv.toNat :=
  append_bytes_toNat (s.palEntry k).rsv (s.palEntry k).r (s.palEntry k).g (s.palEntry k).b

theorem readLoc_writePalWord (s : State) (k : Nat) (v : Word) : (s.writePalWord k v).readLoc (.palette k) = v := by
  rw [State.readLoc, palEntry_writePalWord, if_pos rfl]
  exact append_byteLanes v

/-- The bytes are stored as RSV, R, G, B from the high byte down. -/
theorem palEntry_writePalWord_toNat (s : State) (k : Nat) (v : Word) :
    ((s.writePalWord k v).palEntry k).b.toNat = v.toNat % 256 ∧
      ((s.writePalWord k v).palEntry k).g.toNat = v.toNat / 2 ^ 8 % 256 ∧
      ((s.writePalWord k v).palEntry k).r.toNat = v.toNat / 2 ^ 16 % 256 ∧
      ((s.writePalWord k v).palEntry k).rsv.toNat = v.toNat / 2 ^ 24 := by
  have := v.isLt
  rw [palEntry_writePalWord, if_pos rfl]
  exact ⟨(byteLane_toNat v 0).trans (by rw [Nat.pow_zero, Nat.div_one]), byteLane_toNat v 8, byteLane_toNat v 16,
    (byteLane_toNat v 24).trans (Nat.mod_eq_of_lt (by omega))⟩

theorem valid_writePalWord_same (s : State) {k : Nat} (v : Word) (hk : k < 256) :
    (s.writePalWord k v).valid k = true := by
  rw [valid_writePalWord, decide_eq_true ⟨hk, rfl⟩, Bool.or_true]

/-- A write leaves the other entries and their flags as they were. -/
theorem writePalWord_other (s : State) {k j : Nat} (v : Word) (hj : j ≠ k) :
    (s.writePalWord k v).palEntry j = s.palEntry j ∧ (s.writePalWord k v).valid j = s.valid j := by
  rw [palEntry_writePalWord, valid_writePalWord, if_neg hj.symm, decide_eq_false fun h => hj h.2.symm, Bool.or_false]
  exact ⟨rfl, rfl⟩

end Sys2Proof.Machine

namespace Sys2Proof.Proofs

open Sys2Proof.Machine Sys2Proof.Claims

/-- Settles O42: by the kinds of step; a write reaches no window while BUSY = 1, and an overrun records an error alone. -/
theorem pendingCommandSeesSteadyMemories : Obligations.PendingCommandSeesSteadyMemories :=
  fun _ _ h hb ht hr => (step_effect h).keeps_memories_busy hb ht hr

/-- Settles O49: an access is refused exactly when it reaches nothing, by the ranges of the map. -/
theorem busErrorsExactly : Obligations.BusErrorsExactly := by
  refine ⟨fun s off bytes v ho => ⟨?_, busWrite_isError v⟩, fun s off bytes v ho => ?_⟩
  · rw [busRead_isError, target_eq_none, locationAt_eq_none ho]
    simp only [or_assoc]
  · have ht : s.target off bytes = none := target_eq_none.mpr (.inr (.inr (.inl (locationAt_beyond ho))))
    exact ⟨busRead_refused ht, busWrite_refused v ht⟩

/-- Settles O54: the write stores the word's byte lanes at its four bytes. -/
theorem rowbufWindow : Obligations.RowbufWindow := by
  refine ⟨fun s k hb hk => target_rowbufWindow hb hk,
    fun s k i b hi hb => append_bytes_getLsbD (fun i => s.rowByte (4 * k + i)) hi hb, fun s k v hw => ?_⟩
  exact ⟨_, step_hostWrites hw, readLoc_writeRowWord _ k v,
    fun i hi => (congrArg BitVec.toNat (rowByte_writeRowWord s k v hi)).trans (byteLane_toNat v (8 * i)),
    fun j hj => rowByte_writeRowWord_other s k v hj, rfl, rfl, rfl, rfl, rfl, ⟨rfl, rfl, rfl, rfl⟩, ⟨rfl, rfl, rfl⟩,
    ⟨rfl, fun _ => rfl⟩, fun _ => rfl⟩

/-- Settles O55: the write stores the three channels at its entry, which the read gathers again. -/
theorem pixbufWindow : Obligations.PixbufWindow := by
  refine ⟨fun s i hb hi => target_pixbufWindow hb hi, readLoc_pixWord_toNat, fun s i v hw => ?_⟩
  obtain ⟨hb, hg, hr⟩ := pixel_writePixWord_toNat s i v
  exact ⟨_, step_hostWrites hw, readLoc_writePixWord_toNat s i v, hb, hg, hr,
    fun j hj => (pixel_writePixWord s i v j).trans (if_neg hj.symm), rfl, rfl, rfl, rfl, rfl, ⟨rfl, rfl, rfl, rfl⟩,
    ⟨rfl, rfl, rfl⟩, ⟨rfl, fun _ => rfl⟩, fun _ => rfl⟩

/-- Settles O56: the write stores the four bytes at its entry and sets its valid flag. -/
theorem paletteWindow : Obligations.PaletteWindow := by
  refine ⟨fun s k hb hk => target_paletteWindow hb hk, readLoc_palette_toNat, fun s k v hw => ?_⟩
  obtain ⟨hb, hg, hr, hrsv⟩ := palEntry_writePalWord_toNat s k v
  exact ⟨_, step_hostWrites hw, readLoc_writePalWord s k v, valid_writePalWord_same s v (inRange_of_hostWrites hw), hb,
    hg, hr, hrsv, fun j hj => writePalWord_other s v hj, rfl, rfl, rfl, rfl, rfl, ⟨rfl, rfl, rfl, rfl⟩,
    ⟨rfl, rfl, rfl⟩, fun _ => rfl, fun _ => rfl⟩

/-- Settles O50: the register block and the windows, each by its range of the map. -/
theorem addressMap : Obligations.AddressMap := by
  refine ⟨fun s => ⟨?_, ?_, ?_, ?_, ?_, ?_, ?_, ?_, fun j hj => target_palValid s hj, fun hb => ⟨?_, ?_, ?_⟩⟩,
    fun s => ⟨rfl, rfl, rfl⟩, rfl, rfl, rfl⟩
  case refine_9 => exact fun k hk => target_paletteWindow hb hk
  case refine_10 => exact fun k hk => (target_rowbufWindow hb (hk.trans_le maxWidth_le)).trans (if_pos hk)
  case refine_11 => exact fun i hi => (target_pixbufWindow hb (hi.trans_le maxWidth_le)).trans (if_pos hi)
  all_goals exact target_register s (by decide) (by decide) rfl

/-- Settles O51: a refused access uses up the host's operation and records its response. -/
theorem busErrorChangesNothing : Obligations.BusErrorChangesNothing := by
  refine ⟨fun s off bytes _ hm ht => ?_, fun s off bytes v _ hm ht => ?_⟩
  · refine ⟨_, step_read hm, ?_, sameBlock_respond s _ _, rfl⟩
    rw [busRead_refused ht]
    rfl
  · exact ⟨_, step_write_refused hm ht, rfl, sameBlock_respond s _ _, rfl⟩

/-- Settles O52: a read uses up the host's operation and records the word as its response. -/
theorem readsHaveNoSideEffect : Obligations.ReadsHaveNoSideEffect := by
  intro s off l hm ht
  refine ⟨_, step_read hm, ?_, sameBlock_respond s _ _, rfl⟩
  rw [busRead_of_target ht]
  rfl

end Sys2Proof.Proofs
end

-- Proofs of the family 30_encoding.md: the decoder as the inverse of the encoder, its illegal words, and POLL.
section
namespace Sys2Proof

open Sys2Proof.Machine Sys2Proof.Claims

/-! ### The table, outcome by outcome -/

/-- Each command has one row of the table, at its own OP and BC (30_encoding.md R106). -/
theorem decodeTable_eq_command {op bc : Nat} {i : Instr} :
    decodeTable op bc = .command i ↔ op = i.op.toNat ∧ bc = i.bc.toNat := by
  constructor
  · intro h
    unfold decodeTable at h
    split at h <;> cases h <;> exact ⟨rfl, rfl⟩
  · rintro ⟨rfl, rfl⟩
    cases i <;> rfl

/-- BAD_OP is a reserved OP, or a bit count for NOP or PALCLR (30_encoding.md R104 step 1). -/
theorem decodeTable_eq_badOp {op bc : Nat} :
    decodeTable op bc = .illegal .badOp ↔ 6 ≤ op ∨ ((op = 0 ∨ op = 5) ∧ bc ≠ 0) := by
  unfold decodeTable
  split
  -- the table's last row
  case h_25 => exact iff_of_true rfl (by grind)
  all_goals exact iff_of_false nofun (by grind)

/-- UNSUPPORTED is a bit count that its OP does not have (30_encoding.md R104 step 2, R105). -/
theorem decodeTable_eq_unsupported {op bc : Nat} :
    decodeTable op bc = .illegal .unsupported ↔
      ((op = 1 ∨ op = 2 ∨ op = 3) ∧ bc ∉ [1, 4, 8, 24, 32]) ∨ (op = 4 ∧ bc ∉ [1, 4, 8]) := by
  simp only [List.mem_cons, List.not_mem_nil, or_false]
  unfold decodeTable
  split
  -- the table's rows for any other BC of an OP that takes one
  case h_21 | h_22 | h_23 | h_24 => exact iff_of_true rfl (by grind)
  all_goals exact iff_of_false nofun (by grind)

/-! ### Every word, outcome by outcome -/

/-- The word of a command is its BC above its OP (30_encoding.md R106). -/
theorem encode_toNat (i : Instr) : (encode i).toNat = i.bc.toNat * 256 + i.op.toNat := by
  open Laws.OpcodeWord in
  cases i
  exacts [nop, unpack1, unpack4, unpack8, unpack24, unpack32, pack1, pack4, pack8, pack24, pack32,
    size1, size4, size8, size24, size32, genramp1, genramp4, genramp8, palclr]

/-- A word decodes to a command exactly when it is the command's own word: the reserved bits are 0, and OP and BC are
the command's. -/
theorem decode_eq_command {w : Word} {i : Instr} : decode w = .command i ↔ w = encode i := by
  have hop := i.op.isLt
  have hbc := i.bc.isLt
  rw [decode_eq_table, BitVec.toNat_eq, encode_toNat]
  split
  · exact iff_of_false nofun (by omega)
  · rw [decodeTable_eq_command]
    omega

theorem decode_eq_badOp {w : Word} : decode w = .illegal .badOp ↔ BadOpWord w := by
  unfold BadOpWord
  rw [decode_eq_table, ← or_assoc]
  split
  next h => exact iff_of_true rfl (.inl h)
  next h => exact decodeTable_eq_badOp.trans (or_iff_right h).symm

theorem decode_eq_unsupported {w : Word} : decode w = .illegal .unsupported ↔ UnsupportedWord w := by
  have hformat : ∀ {p q : Prop}, ((opOf w = 1 ∨ opOf w = 2 ∨ opOf w = 3) ∧ p) ∨ (opOf w = 4 ∧ q) →
      ¬ (6 ≤ opOf w ∨ ((opOf w = 0 ∨ opOf w = 5) ∧ bcOf w ≠ 0)) := by
    rintro _ _ (⟨hop, -⟩ | ⟨hop, -⟩) <;> omega
  unfold UnsupportedWord BadOpWord
  rw [decode_eq_table, ← or_assoc]
  split
  next h => exact iff_of_false nofun fun hu => hu.1 (.inl h)
  next h =>
    rw [or_iff_right h]
    exact decodeTable_eq_unsupported.trans (and_iff_right_of_imp hformat).symm

/-- No word decodes to anything but a command, BAD_OP or UNSUPPORTED (30_encoding.md R107). -/
theorem decode_is_command_iff {w : Word} :
    (∃ i, decode w = .command i) ↔ decode w ≠ .illegal .badOp ∧ decode w ≠ .illegal .unsupported := by
  cases h : decode w with
  | command i => exact iff_of_true ⟨i, rfl⟩ ⟨nofun, nofun⟩
  | illegal c => rcases decode_illegal_code h with rfl | rfl <;> simp

end Sys2Proof

namespace Sys2Proof.Machine

open Sys2Proof.Claims

/-! ### POLL -/

/-- A POLL is one read, and is done when the masked data is the value; else it is the host's next operation again
(30_encoding.md R110). -/
theorem step_poll {s : State} {off : Offset} {mask v : Word} (hm : HostMoves s (.poll off mask v)) :
    step s = .next (s.nextTurn.respond
      (if (s.busRead off 4).data &&& mask = v then s.env.program.tail else s.env.program) (s.busRead off 4)) := by
  have hp := program_of_hostMoves hm
  rw [step_host hm.1, hostStep_poll hp, ← hp, busRead_nextTurn]
  split <;> rfl

end Sys2Proof.Machine

namespace Sys2Proof.Proofs

open Sys2Proof.Machine Sys2Proof.Claims

/-- Settles O5: a word decodes to a command exactly when it is the command's encoding. -/
theorem decodeAndEncodeAgree : Obligations.DecodeAndEncodeAgree :=
  ⟨fun _ => decode_eq_command.mpr rfl, fun _ _ => decode_eq_command.mp⟩

/-- Settles O6: the two kinds of illegal word by the table, and a command is what is left. -/
theorem illegalWordsClassified : Obligations.IllegalWordsClassified := by
  intro w
  refine ⟨decode_eq_badOp, decode_eq_unsupported, ?_⟩
  rw [decode_is_command_iff, ne_eq, ne_eq, decode_eq_badOp, decode_eq_unsupported]

/-- Settles O4: each of the words is the encoding of its command. -/
theorem opcodeMapWordsDecode : Obligations.OpcodeMapWordsDecode := by
  unfold Obligations.OpcodeMapWordsDecode
  simp only [decode_eq_command]
  decide

/-- Settles O53: a POLL uses up the turn, records the read's response, and stays unless the value matches. -/
theorem pollRepeatsUntilMatch : Obligations.PollRepeatsUntilMatch :=
  fun s _ _ _ hm => ⟨_, step_poll hm, rfl, sameBlock_respond s _ _, rfl⟩

end Sys2Proof.Proofs
end

-- Proofs of the family 40_unpack.md: the row geometry, and each UNPACK as one run over the pixels.
section
namespace Sys2Proof.Machine

open Sys2Proof.Claims

/-! ### The row geometry in closed form (40_unpack.md R133, R141) -/

theorem rowDataLen_bc1 (w : Nat) : rowDataLen .bc1 w = (w + 7) / 8 := by
  rw [rowDataLen_eq, BitCount.toNat, Nat.mul_one]

theorem rowDataLen_bc4 (w : Nat) : rowDataLen .bc4 w = (w + 1) / 2 := by
  rw [rowDataLen_eq, BitCount.toNat]; omega

theorem rowDataLen_bc8 (w : Nat) : rowDataLen .bc8 w = w := by
  rw [rowDataLen_eq, BitCount.toNat]; omega

theorem rowDataLen_bc24 (w : Nat) : rowDataLen .bc24 w = 3 * w := by
  rw [rowDataLen_eq, BitCount.toNat]; omega

theorem rowDataLen_bc32 (w : Nat) : rowDataLen .bc32 w = 4 * w := by
  rw [rowDataLen_eq, BitCount.toNat]; omega

/-- The padding of R131 is the source's literal, since 3 ≡ −1 (mod 4) (40_unpack.md R133). -/
theorem rowPadLen_eq_three_mul (bc : BitCount) (w : Nat) : rowPadLen bc w = 3 * rowDataLen bc w % 4 := by
  unfold rowPadLen; omega

/-- The stride is the data rounded up to a multiple of 4 (40_unpack.md R132). -/
theorem rowStrideLen_eq_ceil (bc : BitCount) (w : Nat) : rowStrideLen bc w = 4 * ((rowDataLen bc w + 3) / 4) := by
  rw [rowStrideLen_eq, rowPadLen_eq_three_mul]; omega

theorem rowPadLen_bc24 (w : Nat) : rowPadLen .bc24 w = w % 4 := by
  rw [rowPadLen_eq_three_mul, rowDataLen_bc24]; omega

theorem rowPadLen_bc32 (w : Nat) : rowPadLen .bc32 w = 0 := by
  rw [rowPadLen_eq_three_mul, rowDataLen_bc32]; omega

/-! ### Every row command -/

theorem KeepsControl.sameControl {s t : State} (h : KeepsControl s t) : SameControl s t :=
  ⟨h.cmd, h.wSnap, h.ieDone, h.ieErr, h.width, h.resets, h.env⟩

theorem endsInError_recordError (s : State) (c : ErrCode) : EndsInError c s (s.recordError c).finish :=
  ⟨rfl, rfl, State.recordError_err s c, State.recordError_errCode s c⟩

/-- A row too wide is WIDTH_RANGE and nothing else (30_encoding.md R104 step 3). -/
theorem rejectsWideRows_of_rowCommand {i : Instr} {bc : BitCount} {work : State → State}
    (hex : ∀ s, exec i s = .next (s.rowCommand bc work)) : RejectsWideRows i := by
  intro s hw
  have h : exec i s = .next (s.recordError .widthRange).finish := by rw [hex, rowCommand_wide bc work hw]; rfl
  exact ⟨_, h, endsInError_recordError s _, (exec_keepsControl h).sameControl, sameGeometry_recordError s _,
    sameMemories_recordError s _⟩

/-- The geometry registers hold the row's geometry after `set_geometry` (40_unpack.md R132). -/
theorem geometryIs_setGeometry {s : State} (bc : BitCount) (hw : s.w ≤ maxWidth) :
    GeometryIs bc.toNat s.w (s.setGeometry bc) := by
  refine ⟨setGeometry_rowData_toNat hw, setGeometry_rowPad_toNat s bc, ?_⟩
  rw [setGeometry_rowStride_toNat hw, setGeometry_rowData_toNat hw, setGeometry_rowPad_toNat, rowStrideLen_eq]

theorem geometryIs_of_same {bc w : Nat} {s t : State} (h : GeometryIs bc w s) (hg : SameGeometry s t) :
    GeometryIs bc w t := by
  obtain ⟨hdata, hpad, hstride⟩ := hg
  unfold GeometryIs
  rw [hdata, hpad, hstride]
  exact h

/-! ### UNPACK as one run over the pixels -/

/-- The shape that all five UNPACKs share: a pixel from each position of the row, then either all of them into PIXBUF
or the first error (40_unpack.md R135 (b)). -/
def State.unpackWith (f : State → Nat → Except ErrCode Pixel) (s : State) : State :=
  match forPixels (f s) s.w with
  | .error e => s.recordError e
  | .ok ps => s.writePixels ps

theorem unpackIndexed_eq_unpackWith (index : State → Nat → Byte) :
    State.unpackIndexed index = State.unpackWith fun s x => lookupUnpack s (index s x) := by
  funext s
  unfold State.unpackIndexed State.unpackWith
  cases forPixels (fun x => lookupUnpack s (index s x)) s.w <;> rfl

theorem unpackDirect_eq_unpackWith (n : Nat) :
    State.unpackDirect n = State.unpackWith fun s x => .ok (directPixel s n x) := by
  funext s
  unfold State.unpackWith
  rw [forPixels_of_ok fun x _ => rfl]
  rfl

/-- An UNPACK sets no register but ERR and ERRCODE and writes no memory but PIXBUF. -/
theorem unpackWith_frame (f : State → Nat → Except ErrCode Pixel) (s : State) :
    SameGeometry s (s.unpackWith f) ∧ SamePalette s (s.unpackWith f) ∧ SameRowbuf s (s.unpackWith f) := by
  unfold State.unpackWith
  split
  · obtain ⟨hpal, hrow, _⟩ := sameMemories_recordError s ‹ErrCode›
    exact ⟨sameGeometry_recordError s _, hpal, hrow⟩
  · exact ⟨⟨rfl, rfl, rfl⟩, ⟨rfl, fun _ => rfl⟩, fun _ => rfl⟩

/-- The geometry and the frame of an UNPACK whose width is in range, whatever its pixels. -/
theorem unpack_frame {i : Instr} {bc : BitCount} {work : State → State} {f : State → Nat → Except ErrCode Pixel}
    (hex : ∀ s, exec i s = .next (s.rowCommand bc work)) (hwork : work = State.unpackWith f) {s : State}
    (hw : s.w ≤ maxWidth) :
    let t := (work (s.setGeometry bc)).finish
    exec i s = .next t ∧ GeometryIs bc.toNat s.w t ∧ SameControl s t ∧ SamePalette s t ∧ SameRowbuf s t := by
  subst hwork
  have h : exec i s = .next ((s.setGeometry bc).unpackWith f).finish := by rw [hex, rowCommand_ok bc _ hw]
  obtain ⟨hg, hpal, hrow⟩ := unpackWith_frame f (s.setGeometry bc)
  exact ⟨h, geometryIs_of_same (geometryIs_setGeometry bc hw) hg, (exec_keepsControl h).sameControl, hpal, hrow⟩

/-- An UNPACK through the palette, for any way to read an index from ROWBUF (40_unpack.md R134, R135). -/
theorem unpacksIndexed_of_exec {i : Instr} (bc : BitCount) {index : State → Nat → Byte}
    (hex : ∀ s, exec i s = .next (s.rowCommand bc (State.unpackIndexed index)))
    (hindex : ∀ s s' x, SameRowbuf s s' → index s' x = index s x) :
    UnpacksIndexed i bc.toNat fun s x => (index s x).toNat := by
  intro s hw
  have hidx : ∀ x, index (s.setGeometry bc) x = index s x := fun x => hindex s _ x fun _ => rfl
  obtain ⟨h, hgeom, hctrl, hpal, hrow⟩ := unpack_frame hex (unpackIndexed_eq_unpackWith index) hw
  refine ⟨_, h, hgeom, hctrl, hpal, hrow, ?_, fun hv => ?_⟩
  · rintro ⟨x, hx, hv⟩
    rw [unpackIndexed_invalid (s := s.setGeometry bc) ⟨x, hx, by rw [hidx]; exact hv⟩]
    exact ⟨endsInError_recordError (s.setGeometry bc) _, State.recordError_pixel (s.setGeometry bc) _⟩
  · rw [unpackIndexed_ok (s := s.setGeometry bc) fun x hx => by rw [hidx]; exact hv x hx]
    refine ⟨⟨rfl, rfl, rfl, rfl⟩, fun x hx => ?_, fun x hx => ?_⟩
    · rw [State.finish_pixel, pixel_writePixels_range, State.setGeometry_w, if_pos hx, hidx,
        State.setGeometry_palEntry]
    · rw [State.finish_pixel, pixel_writePixels_range, State.setGeometry_w, if_neg (by omega), State.setGeometry_pixel]

/-- An UNPACK of pixels that the row holds themselves (40_unpack.md R139, R140). -/
theorem unpacksDirect_of_exec {i : Instr} {bc : BitCount} {n : Nat}
    (hex : ∀ s, exec i s = .next (s.rowCommand bc (State.unpackDirect n))) (hn : bc.toNat = 8 * n) :
    UnpacksDirect i n := by
  intro s hw
  obtain ⟨h, hgeom, hctrl, hpal, hrow⟩ := unpack_frame hex (unpackDirect_eq_unpackWith n) hw
  have hpix : ∀ x, ((s.setGeometry bc).unpackDirect n).finish.pixel x =
      if x < s.w then directPixel s n x else s.pixel x := pixel_writePixels_range (s.setGeometry bc) s.w _
  refine ⟨_, h, ⟨rfl, rfl, rfl, rfl⟩, hn ▸ hgeom, hctrl, hpal, hrow, fun x hx => ?_, fun x hx => ?_⟩
  · rw [hpix, if_pos hx]
    exact ⟨rfl, rfl, rfl⟩
  · rw [hpix, if_neg (by omega)]

/-! ### The bits of ROWBUF that an UNPACK reads -/

/-- The data bits of the row, `bc` for each pixel from bit 7 of byte 0 on, do not differ. -/
def SameRowData (bc : Nat) (s s' : State) : Prop :=
  ∀ j, j < (s.w * bc + 7) / 8 → ∀ b, b < 8 → 8 * j + (7 - b) < s.w * bc →
    (s'.rowByte j).getLsbD b = (s.rowByte j).getLsbD b

section
variable {bc : Nat} {s s' : State} (h : SameRowData bc s s')
include h

theorem SameRowData.bit {j b : Nat} (hb : b < 8) (hlt : 8 * j + (7 - b) < s.w * bc) :
    (s'.rowByte j).getLsbD b = (s.rowByte j).getLsbD b := h j (by omega) b hb hlt

theorem SameRowData.byte {j : Nat} (hj : 8 * j + 7 < s.w * bc) : s'.rowByte j = s.rowByte j :=
  BitVec.eq_of_getLsbD_eq fun b hb => h.bit hb (by omega)

end

/-- A mask makes alike two bytes that agree on its bits. -/
theorem and_mask_congr {u v m : Byte} (h : ∀ b, b < 8 → m.getLsbD b = true → u.getLsbD b = v.getLsbD b) :
    u &&& m = v &&& m := by
  refine BitVec.eq_of_getLsbD_eq fun b hb => ?_
  rw [BitVec.getLsbD_and, BitVec.getLsbD_and]
  cases hm : m.getLsbD b with
  | false => rw [Bool.and_false, Bool.and_false]
  | true => rw [h b hb hm]

section
variable {s s' : State} {x : Nat} (hx : x < s.w)
include hx

theorem index1_of_sameRowData (h : SameRowData 1 s s') : index1 s' x = index1 s x := by
  refine BitVec.eq_of_toNat_eq ?_
  rw [index1_toNat, index1_toNat, h.bit (by omega) (by omega)]

theorem index4_of_sameRowData (h : SameRowData 4 s s') : index4 s' x = index4 s x := by
  have hhigh : ∀ b, b < 8 → (0xF0 : Byte).getLsbD b = true → 4 ≤ b := by decide
  unfold index4
  split
  · rw [and_mask_congr fun b hb hm => h.bit hb (by have := hhigh b hb hm; omega)]
  · rw [and_mask_congr fun b hb _ => h.bit hb (by omega)]

theorem index8_of_sameRowData (h : SameRowData 8 s s') : index8 s' x = index8 s x := h.byte (by omega)

theorem directPixel_of_sameRowData {n : Nat} (hn : 3 ≤ n) (h : SameRowData (8 * n) s s') :
    directPixel s' n x = directPixel s n x := by
  have hlast : 8 * (n * x + 2) + 7 < s.w * (8 * n) := by nlinarith
  unfold directPixel
  rw [h.byte (j := n * x) (by omega), h.byte (j := n * x + 1) (by omega), h.byte hlast]

end

/-! ### Two UNPACKs of rows with the same data -/

/-- An UNPACK each of whose pixels depends on the palette and on the row's data bits only. -/
def ReadsRowData (bc : BitCount) (work : State → State) : Prop :=
  ∃ f, work = State.unpackWith f ∧
    ∀ s s' x, x < s.w → SamePalette s s' → SameRowData bc.toNat s s' → f s' x = f s x

theorem readsRowData_unpackIndexed {bc : BitCount} {index : State → Nat → Byte}
    (h : ∀ s s' x, x < s.w → SameRowData bc.toNat s s' → index s' x = index s x) :
    ReadsRowData bc (State.unpackIndexed index) := by
  refine ⟨_, unpackIndexed_eq_unpackWith index, fun s s' x hx hpal hrow => ?_⟩
  obtain ⟨hpv, hentry⟩ := hpal
  exact lookupUnpack_congr (h s s' x hx hrow) hpv fun k _ => by rw [hentry]

theorem readsRowData_unpackDirect {bc : BitCount} {n : Nat} (hn : 3 ≤ n) (hbc : bc.toNat = 8 * n) :
    ReadsRowData bc (State.unpackDirect n) :=
  ⟨_, unpackDirect_eq_unpackWith n, fun _ _ _ hx _ hrow =>
    congrArg Except.ok (directPixel_of_sameRowData hx hn (hbc ▸ hrow))⟩

/-- Each UNPACK reads its row's data and nothing more of ROWBUF. -/
theorem exec_unpack {i : Instr} {n : Nat}
    (hi : (i, n) ∈ [(Instr.unpack1, 1), (.unpack4, 4), (.unpack8, 8), (.unpack24, 24), (.unpack32, 32)]) :
    ∃ bc work, bc.toNat = n ∧ ReadsRowData bc work ∧ ∀ s, exec i s = .next (s.rowCommand bc work) := by
  simp only [List.mem_cons, Prod.mk.injEq, List.not_mem_nil, or_false] at hi
  rcases hi with ⟨rfl, rfl⟩ | ⟨rfl, rfl⟩ | ⟨rfl, rfl⟩ | ⟨rfl, rfl⟩ | ⟨rfl, rfl⟩
  · exact ⟨.bc1, _, rfl, readsRowData_unpackIndexed fun _ _ _ => index1_of_sameRowData, fun _ => rfl⟩
  · exact ⟨.bc4, _, rfl, readsRowData_unpackIndexed fun _ _ _ => index4_of_sameRowData, fun _ => rfl⟩
  · exact ⟨.bc8, _, rfl, readsRowData_unpackIndexed fun _ _ _ => index8_of_sameRowData, fun _ => rfl⟩
  · exact ⟨.bc24, _, rfl, readsRowData_unpackDirect (n := 3) (by decide) rfl, fun _ => rfl⟩
  · exact ⟨.bc32, _, rfl, readsRowData_unpackDirect (n := 4) (by decide) rfl, fun _ => rfl⟩

theorem sameGeometry_setGeometry {s s' : State} (bc : BitCount) (hw : s'.w = s.w) :
    SameGeometry (s.setGeometry bc) (s'.setGeometry bc) := by
  simp [SameGeometry, hw]

theorem sameGeometry_unpackWith {s s' : State} (h : SameGeometry s s') (f : State → Nat → Except ErrCode Pixel) :
    SameGeometry (s.unpackWith f) (s'.unpackWith f) := by
  obtain ⟨hdata, hpad, hstride⟩ := h
  obtain ⟨⟨hdata₁, hpad₁, hstride₁⟩, _⟩ := unpackWith_frame f s
  obtain ⟨⟨hdata₂, hpad₂, hstride₂⟩, _⟩ := unpackWith_frame f s'
  exact ⟨hdata₂.trans (hdata.trans hdata₁.symm), hpad₂.trans (hpad.trans hpad₁.symm),
    hstride₂.trans (hstride.trans hstride₁.symm)⟩

section
variable {s s' : State} (hop : SameOperands s s') (hpix : SamePixbuf s s')
include hop hpix

theorem recordError_alike (c : ErrCode) :
    SameOperands (s.recordError c) (s'.recordError c) ∧ SamePixbuf (s.recordError c) (s'.recordError c) := by
  obtain ⟨hw, herr, hcode⟩ := hop
  refine ⟨⟨?_, ?_, ?_⟩, fun i => ?_⟩
  · rw [State.recordError_wSnap, State.recordError_wSnap, hw]
  · rw [State.recordError_err, State.recordError_err]
  · rw [State.recordError_errCode, State.recordError_errCode, herr, hcode]
  · rw [State.recordError_pixel, State.recordError_pixel, hpix]

/-- Runs that give the same results leave the same pixels and the same error. -/
theorem unpackWith_alike {f : State → Nat → Except ErrCode Pixel} (hf : ∀ x, x < s.w → f s' x = f s x) :
    SameOperands (s.unpackWith f) (s'.unpackWith f) ∧ SamePixbuf (s.unpackWith f) (s'.unpackWith f) := by
  have hw : s'.w = s.w := congrArg BitVec.toNat hop.1
  unfold State.unpackWith
  rw [hw, forPixels_congr hf]
  split
  · exact recordError_alike hop hpix _
  · exact ⟨hop, fun i => by rw [pixel_writePixels, pixel_writePixels, hpix]⟩

/-- Two UNPACKs of rows with the same data and the same palette end with the same pixels and the same error, and with
the same geometry while the width is in range (40_unpack.md R135 (a), (e)). -/
theorem rowCommand_alike {bc : BitCount} {work : State → State} (hwork : ReadsRowData bc work)
    (hpal : SamePalette s s') (hrow : SameRowData bc.toNat s s') :
    let t := s.rowCommand bc work
    let t' := s'.rowCommand bc work
    SameOperands t t' ∧ SamePixbuf t t' ∧ (s.w ≤ maxWidth → SameGeometry t t') := by
  have hw : s'.w = s.w := congrArg BitVec.toNat hop.1
  rcases Nat.lt_or_ge maxWidth s.w with hwide | hin
  · rw [rowCommand_wide bc _ hwide, rowCommand_wide bc _ (hw ▸ hwide)]
    obtain ⟨hop', hpix'⟩ := recordError_alike hop hpix .widthRange
    exact ⟨hop', hpix', fun hin => absurd hin (by omega)⟩
  · rw [rowCommand_ok bc _ hin, rowCommand_ok bc _ (hw ▸ hin)]
    obtain ⟨f, rfl, hf⟩ := hwork
    obtain ⟨hop', hpix'⟩ := unpackWith_alike (s := s.setGeometry bc) (s' := s'.setGeometry bc) hop hpix
      fun x hx => hf (s.setGeometry bc) (s'.setGeometry bc) x hx hpal hrow
    exact ⟨hop', hpix', fun _ => sameGeometry_unpackWith (sameGeometry_setGeometry bc hw) f⟩

end

end Sys2Proof.Machine

namespace Sys2Proof.Proofs

open Sys2Proof.Machine Sys2Proof.Claims

/-- Settles O16: the 1-bit index is the bit the rule names. -/
theorem unpack1DecodesRow : Obligations.Unpack1DecodesRow := by
  have hindex : (fun s x => (index1 s x).toNat) = bitIndex := funext₂ index1_toNat
  exact ⟨decode_eq_command.mpr rfl, rejectsWideRows_of_rowCommand fun _ => rfl,
    hindex ▸ unpacksIndexed_of_exec .bc1 (fun _ => rfl) index1_congr⟩

/-- Settles O17: the 4-bit index is the nibble the rule names. -/
theorem unpack4DecodesRow : Obligations.Unpack4DecodesRow := by
  have hindex : (fun s x => (index4 s x).toNat) = nibbleIndex := funext₂ index4_toNat
  exact ⟨decode_eq_command.mpr rfl, rejectsWideRows_of_rowCommand fun _ => rfl,
    hindex ▸ unpacksIndexed_of_exec .bc4 (fun _ => rfl) index4_congr⟩

/-- Settles O18: the 8-bit index is the byte. -/
theorem unpack8DecodesRow : Obligations.Unpack8DecodesRow :=
  ⟨decode_eq_command.mpr rfl, rejectsWideRows_of_rowCommand fun _ => rfl,
    unpacksIndexed_of_exec .bc8 (fun _ => rfl) index8_congr⟩

/-- Settles O19: a direct row at three bytes a pixel. -/
theorem unpack24DecodesRow : Obligations.Unpack24DecodesRow :=
  ⟨decode_eq_command.mpr rfl, rejectsWideRows_of_rowCommand fun _ => rfl,
    unpacksDirect_of_exec (fun _ => rfl) rfl⟩

/-- Settles O20: a direct row at four bytes a pixel, of which the fourth is never read. -/
theorem unpack32DecodesRow : Obligations.Unpack32DecodesRow :=
  ⟨decode_eq_command.mpr rfl, rejectsWideRows_of_rowCommand fun _ => rfl,
    unpacksDirect_of_exec (fun _ => rfl) rfl⟩

/-- Settles O21: each pixel's result is a function of the palette and of the row's data bits, and the rest of an UNPACK
is a function of these results. -/
theorem unpackIgnoresUnusedBits : Obligations.UnpackIgnoresUnusedBits := by
  intro i n s s' hi hop hpal hpix hrow
  obtain ⟨bc, work, rfl, hwork, hex⟩ := exec_unpack hi
  obtain ⟨⟨_, herr, hcode⟩, hpix', hgeom⟩ := rowCommand_alike hop hpix hwork hpal hrow
  obtain ⟨hb, hd⟩ := exec_completes (hex s)
  obtain ⟨hb', hd'⟩ := exec_completes (hex s')
  exact ⟨_, _, hex s, hex s', hpix', ⟨hb'.trans hb.symm, hd'.trans hd.symm, herr, hcode⟩, hgeom⟩

/-- Settles O59: the data bytes in closed form, and from them the padding and the stride. -/
theorem rowGeometryClosedForms : Obligations.RowGeometryClosedForms := by
  intro w
  refine ⟨⟨rowDataLen_bc1 w, rowDataLen_bc4 w, rowDataLen_bc8 w, rowDataLen_bc24 w, rowDataLen_bc32 w⟩,
    ⟨?_, ?_, ?_, rowPadLen_bc24 w, rowPadLen_bc32 w⟩, ⟨rfl, rfl, ?_⟩,
    ⟨rowStrideLen_eq_ceil .bc1 w, rowStrideLen_eq_ceil .bc4 w, ?_, ?_, ?_⟩, fun bc => ?_⟩
  · rw [rowPadLen_eq_three_mul, rowDataLen_bc1]
  · rw [rowPadLen_eq_three_mul, rowDataLen_bc4]
  · rw [rowPadLen_eq_three_mul, rowDataLen_bc8]
  · rw [rowPadLen, rowDataLen_bc8]
  · rw [rowStrideLen_eq_ceil, rowDataLen_bc8]
  · rw [rowStrideLen_eq, rowDataLen_bc24, rowPadLen_bc24]
  · rw [rowStrideLen_eq, rowDataLen_bc32, rowPadLen_bc32, Nat.add_zero]
  · have hceil := rowStrideLen_eq_ceil bc w
    have hle := rowStrideLen_le bc w
    have hwidest : rowStrideLen .bc32 maxWidth = 4 * maxWidth := by
      rw [rowStrideLen_eq, rowDataLen_bc32, rowPadLen_bc32, Nat.add_zero]
    exact ⟨rowStrideLen_mod_four bc w, by omega, by omega, hle, fun hw => by omega⟩

end Sys2Proof.Proofs
end

-- Proofs of the family 41_pack.md: each PACK as one stored row, and the two round trips from the statements of PACK
-- and UNPACK alone.
section
namespace Sys2Proof.Machine

open Sys2Proof.Claims

/-! ### The frame of a PACK -/

theorem writeStoredRow_frame (s : State) (bc : BitCount) (data : List Byte) :
    let t := s.writeStoredRow bc data
    SameGeometry s t ∧ SamePalette s t ∧ SamePixbuf s t :=
  ⟨⟨rfl, rfl, rfl⟩, ⟨rfl, fun _ => rfl⟩, fun _ => rfl⟩

theorem packIndexed_frame (s : State) (bc : BitCount) (byteAt : Nat → List Byte → Nat → Byte) :
    let t := s.packIndexed bc byteAt
    SameGeometry s t ∧ SamePalette s t ∧ SamePixbuf s t := by
  rcases packIndexed_cases s bc byteAt with ⟨_, _, _, ho⟩ | ⟨_, ho⟩ <;> rw [ho]
  · exact writeStoredRow_frame s bc _
  · obtain ⟨hpal, _, hpix⟩ := sameMemories_recordError s .palNoMatch
    exact ⟨sameGeometry_recordError s _, hpal, hpix⟩

/-- The geometry and the frame of a PACK whose width is in range, whatever its bytes. -/
theorem pack_frame {i : Instr} {bc : BitCount} {work : State → State}
    (hex : ∀ s, exec i s = .next (s.rowCommand bc work))
    (hwork : ∀ s, SameGeometry s (work s) ∧ SamePalette s (work s) ∧ SamePixbuf s (work s)) {s : State}
    (hw : s.w ≤ maxWidth) :
    let t := (work (s.setGeometry bc)).finish
    exec i s = .next t ∧ GeometryIs bc.toNat s.w t ∧ SameControl s t ∧ SamePalette s t ∧ SamePixbuf s t := by
  have h : exec i s = .next (work (s.setGeometry bc)).finish := by rw [hex, rowCommand_ok bc _ hw]
  obtain ⟨hg, hpal, hpix⟩ := hwork (s.setGeometry bc)
  exact ⟨h, geometryIs_of_same (geometryIs_setGeometry bc hw) hg, (exec_keepsControl h).sameControl, hpal, hpix⟩

/-! ### How the indices lie in the bytes of a row -/

/-- A byte holds `ppb` indices of `bc` bits, which depend on that byte alone and fix it. -/
structure IndexLayout (bc ppb : Nat) (index : State → Nat → Nat) : Prop where
  bits : ppb * bc = 8
  lt : ∀ s x, index s x < 2 ^ bc
  congr : ∀ {s t : State} {x}, t.rowByte (x / ppb) = s.rowByte (x / ppb) → index t x = index s x
  byte_ext : ∀ {s t : State} {j}, (∀ x, x / ppb = j → index t x = index s x) → t.rowByte j = s.rowByte j

theorem bitIndex_eq_toNat (s : State) (x : Nat) :
    bitIndex s x = ((s.rowByte (x / 8)).getLsbD (7 - x % 8)).toNat := by
  unfold bitIndex
  cases (s.rowByte (x / 8)).getLsbD (7 - x % 8) <;> rfl

theorem indexLayout_bit : IndexLayout 1 8 bitIndex where
  bits := rfl
  lt s x := by rw [bitIndex_eq_toNat]; exact Bool.toNat_lt _
  congr h := by rw [bitIndex_eq_toNat, bitIndex_eq_toNat, h]
  byte_ext {s t j} h := by
    refine BitVec.eq_of_getLsbD_eq fun b hb => ?_
    have hx := h (8 * j + (7 - b)) (by omega)
    rw [bitIndex_eq_toNat, bitIndex_eq_toNat, show (8 * j + (7 - b)) / 8 = j by omega,
      show 7 - (8 * j + (7 - b)) % 8 = b by omega] at hx
    exact Function.LeftInverse.injective Bool.ofNat_toNat hx

theorem indexLayout_nibble : IndexLayout 4 2 nibbleIndex where
  bits := rfl
  lt s x := by unfold nibbleIndex; split <;> omega
  congr h := by unfold nibbleIndex; rw [h]
  byte_ext {s t j} h := by
    have hhigh := h (2 * j) (by omega)
    have hlow := h (2 * j + 1) (by omega)
    unfold nibbleIndex at hhigh hlow
    rw [if_pos (by omega), if_pos (by omega), show 2 * j / 2 = j by omega] at hhigh
    rw [if_neg (by omega), if_neg (by omega), show (2 * j + 1) / 2 = j by omega] at hlow
    exact BitVec.eq_of_toNat_eq (by omega)

theorem indexLayout_byte : IndexLayout 8 1 byteIndex where
  bits := rfl
  lt s x := (s.rowByte x).isLt
  congr {s t x} h := by rw [Nat.div_one] at h; unfold byteIndex; rw [h]
  byte_ext {s t j} h := BitVec.eq_of_toNat_eq (h j (Nat.div_one j))

theorem IndexLayout.dvd {bc ppb : Nat} {index : State → Nat → Nat} (h : IndexLayout bc ppb index) : bc ∣ 8 :=
  Dvd.intro_left ppb h.bits

/-- Every pixel of a row has its position in the data bytes. -/
theorem IndexLayout.lt_positions {bc ppb w x : Nat} {index : State → Nat → Nat} (h : IndexLayout bc ppb index)
    (hx : x < w) : x < ppb * ((w * bc + 7) / 8) := by
  have hdata : w * bc ≤ ppb * ((w * bc + 7) / 8) * bc :=
    calc w * bc ≤ 8 * ((w * bc + 7) / 8) := by omega
      _ = ppb * ((w * bc + 7) / 8) * bc := by rw [Nat.mul_right_comm, h.bits]
  exact hx.trans_le (Nat.le_of_mul_le_mul_right hdata (Nat.pos_of_dvd_of_pos h.dvd (by decide)))

/-- The positions of `n` bytes are those whose byte is among them. -/
theorem IndexLayout.byte_lt_iff {bc ppb n x : Nat} {index : State → Nat → Nat} (h : IndexLayout bc ppb index) :
    x / ppb < n ↔ x < ppb * n := by
  rw [Nat.div_lt_iff_lt_mul (Nat.pos_of_dvd_of_pos (Dvd.intro bc h.bits) (by decide)), Nat.mul_comm]

/-- A row of the bytes `byteAt` holds each pixel's index at its position, and 0 in the positions beyond the last pixel
(41_pack.md R161 (d)). -/
def HoldsIndices (bc : BitCount) (ppb : Nat) (byteAt : Nat → List Byte → Nat → Byte) (index : State → Nat → Nat) :
    Prop :=
  ∀ (t : State) (w : Nat) (idx : List Byte), (∀ x, x < w → (idxAt idx x).toNat < 2 ^ bc.toNat) →
    (∀ j, j < rowDataLen bc w → t.rowByte j = byteAt w idx j) →
    ∀ x, x < ppb * rowDataLen bc w → index t x = if x < w then (idxAt idx x).toNat else 0

theorem holdsIndices_packByte1 : HoldsIndices .bc1 8 packByte1 bitIndex := by
  intro t w idx hidx hrow x hx
  rw [bitIndex_eq_toNat, hrow _ (by omega), packByte1_bit w idx (x / 8) (x % 8) (by omega) hidx, Nat.div_add_mod]
  by_cases hxw : x < w
  · have hlt : (idxAt idx x).toNat < 2 := hidx x hxw
    rw [if_pos hxw, decide_eq_true hxw, Bool.true_and, BitVec.getLsbD, Nat.toNat_testBit]
    omega
  · rw [if_neg hxw, decide_eq_false hxw, Bool.false_and]
    rfl

theorem holdsIndices_packByte4 : HoldsIndices .bc4 2 packByte4 nibbleIndex := by
  intro t w idx hidx hrow x hx
  have hdata := rowDataLen_bc4 w
  obtain ⟨hhigh, hlow⟩ := packByte4_halves w idx (x / 2) (hidx _ (by omega)) fun h => hidx _ h
  unfold nibbleIndex
  rw [hrow _ (by omega), hhigh, hlow]
  by_cases heven : x % 2 = 0
  · rw [if_pos heven, if_pos (by omega), show 2 * (x / 2) = x by omega]
  · rw [if_neg heven, show 2 * (x / 2) + 1 = x by omega]

theorem holdsIndices_packByte8 : HoldsIndices .bc8 1 (fun _ => packByte8) byteIndex := by
  intro t w idx _ hrow x hx
  have hdata := rowDataLen_bc8 w
  unfold byteIndex
  rw [hrow x (by omega), if_pos (by omega)]
  rfl

/-! ### What each PACK does -/

/-- A stored row in ROWBUF: its data bytes, then zero padding up to ROWSTRIDE, and the rest as it was (41_pack.md
R161). -/
theorem endsWell_writeStoredRow {s : State} {bc : BitCount} {data : List Byte} (hw : s.w ≤ maxWidth)
    (hlen : data.length = rowDataLen bc s.w) :
    let t := ((s.setGeometry bc).writeStoredRow bc data).finish
    EndsWell s t ∧ (∀ j b, data[j]? = some b → t.rowByte j = b) ∧
      (∀ j, rowDataLen bc s.w ≤ j → j < t.rowStride.toNat → t.rowByte j = 0) ∧
      ∀ j, t.rowStride.toNat ≤ j → t.rowByte j = s.rowByte j := by
  intro t
  have hrow : ∀ j, t.rowByte j = if j < rowDataLen bc s.w then data[j]?.getD 0
      else if j < rowStrideLen bc s.w then 0 else s.rowByte j := rowByte_writeStoredRow (s.setGeometry bc) bc data hlen
  have hstride : t.rowStride.toNat = rowStrideLen bc s.w := setGeometry_rowStride_toNat hw
  have hle : rowDataLen bc s.w ≤ rowStrideLen bc s.w := Nat.le_add_right _ _
  rw [hstride]
  refine ⟨⟨rfl, rfl, rfl, rfl⟩, fun j b hj => ?_, fun j hj hj' => ?_, fun j hj => ?_⟩
  · rw [hrow, if_pos (hlen ▸ (List.getElem?_eq_some_iff.mp hj).1), hj]
    rfl
  · rw [hrow, if_neg (by omega), if_pos hj']
  · rw [hrow, if_neg (by omega), if_neg (by omega)]

/-- A PACK through the palette, for any way to lay the indices out in bytes (41_pack.md R160 to R162). -/
theorem packsIndexed_of_exec {i : Instr} {bc : BitCount} {ppb : Nat} {byteAt : Nat → List Byte → Nat → Byte}
    {index : State → Nat → Nat} (hex : ∀ s, exec i s = .next (s.rowCommand bc (State.packIndexed bc byteAt)))
    (hlayout : IndexLayout bc.toNat ppb index) (hholds : HoldsIndices bc ppb byteAt index) :
    PacksIndexed i bc.toNat ppb index := by
  intro s hw
  have hbc : bc.toNat ≤ 8 := Nat.le_of_dvd (by decide) hlayout.dvd
  obtain ⟨h, hgeom, hctrl, hpal, hpix⟩ := pack_frame hex (packIndexed_frame · bc byteAt) hw
  have hdata := hgeom.1
  refine ⟨_, h, hgeom, hctrl, hpal, hpix, ?_⟩
  rw [hdata, ← rowDataLen_eq]
  rcases packIndexed_cases (s.setGeometry bc) bc byteAt with ⟨idx, _, hlookup, ho⟩ | ⟨⟨x, hx, hno⟩, ho⟩ <;> rw [ho]
  · have hlow : ∀ x, x < s.w → LowestMatch s (2 ^ bc.toNat) (s.pixel x) (idxAt idx x).toNat :=
      fun x hx => lookupPack_ok hbc (hlookup x hx)
    obtain ⟨hend, hbytes, hpad, hrest⟩ := endsWell_writeStoredRow (s := s) (bc := bc)
      (data := (List.range (rowDataLen bc s.w)).map (byteAt s.w idx)) hw (by simp)
    have hindex := hholds _ s.w idx (fun x hx => (hlow x hx).1) fun j hj => hbytes j _ (by simp [hj])
    refine ⟨?_, fun _ => ⟨hend, fun x hx => ?_, fun x hx hpos => ?_, hpad, hrest⟩⟩
    · rintro ⟨x, hx, hno⟩
      obtain ⟨hlt, hv, hc, _⟩ := hlow x hx
      exact absurd hc (hno _ hlt hv)
    · exact (hindex x (hlayout.lt_positions hx)).trans (if_pos hx) ▸ hlow x hx
    · exact (hindex x hpos).trans (if_neg (by omega))
  · refine ⟨fun _ => ⟨endsInError_recordError (s.setGeometry bc) _, State.recordError_rowByte (s.setGeometry bc) _⟩,
      fun hall => ?_⟩
    obtain ⟨k, hk, hv, hc⟩ := hall x hx
    exact absurd hc (hno k hk hv)

/-- The bytes of a row at `n` bytes a pixel: B, G, R, and a fourth byte of 0 (41_pack.md R166, R167). -/
def HoldsPixels (n : Nat) (bytesOf : Pixel → List Byte) : Prop :=
  ∀ (p : Nat → Pixel) (w : Nat), ((List.range w).flatMap fun x => bytesOf (p x)).length = n * w ∧
    ∀ x, x < w → let row := (List.range w).flatMap fun x => bytesOf (p x)
      row[n * x]? = some (p x).b ∧ row[n * x + 1]? = some (p x).g ∧ row[n * x + 2]? = some (p x).r ∧
        (n = 4 → row[n * x + 3]? = some 0)

theorem holdsPixels_tripleOf : HoldsPixels 3 tripleOf := by
  intro p w
  obtain ⟨hlen, hrow⟩ := flatMap_tripleOf p w
  refine ⟨hlen, fun x hx => ?_⟩
  obtain ⟨hb, hg, hr⟩ := hrow x hx
  exact ⟨hb, hg, hr, fun h => absurd h (by decide)⟩

theorem holdsPixels_quadOf : HoldsPixels 4 quadOf := by
  intro p w
  obtain ⟨hlen, hrow⟩ := flatMap_quadOf p w
  refine ⟨hlen, fun x hx => ?_⟩
  obtain ⟨hb, hg, hr, hrsv⟩ := hrow x hx
  exact ⟨hb, hg, hr, fun _ => hrsv⟩

/-- The data bytes at `n` whole bytes a pixel. -/
theorem dataBytes_whole (n w : Nat) : (w * (8 * n) + 7) / 8 = n * w := by
  rw [Nat.mul_left_comm, Nat.mul_comm w]
  omega

/-- A PACK that writes the pixels' own bytes (41_pack.md R166, R167). -/
theorem packsDirect_of_exec {i : Instr} {bc : BitCount} {n : Nat} {bytesOf : Pixel → List Byte}
    (hex : ∀ s, exec i s = .next (s.rowCommand bc (State.packDirect bc bytesOf))) (hn : bc.toNat = 8 * n)
    (hholds : HoldsPixels n bytesOf) : PacksDirect i n := by
  intro s hw
  obtain ⟨h, hgeom, hctrl, hpal, hpix⟩ := pack_frame hex (fun s => writeStoredRow_frame s bc _) hw
  obtain ⟨hlen, hrow⟩ := hholds s.pixel s.w
  have hdata : rowDataLen bc s.w = n * s.w := by rw [rowDataLen_eq, hn, dataBytes_whole]
  obtain ⟨hend, hbytes, hpad, hrest⟩ := endsWell_writeStoredRow (bc := bc) hw (hlen.trans hdata.symm)
  refine ⟨_, h, hend, hn ▸ hgeom, hctrl, hpal, hpix, fun x hx => ?_, hdata ▸ hpad, hrest⟩
  obtain ⟨hb, hg, hr, hrsv⟩ := hrow x hx
  exact ⟨hbytes _ _ hb, hbytes _ _ hg, hbytes _ _ hr, fun h4 => hbytes _ _ (hrsv h4)⟩

theorem Pixel.ext {p q : Pixel} (hb : p.b = q.b) (hg : p.g = q.g) (hr : p.r = q.r) : p = q := by
  show Pixel.mk p.b p.g p.r = q
  rw [hb, hg, hr]

end Sys2Proof.Machine

namespace Sys2Proof.Claims

open Sys2Proof.Machine

/-! ### The round trips, from the statements of PACK and UNPACK (41_pack.md R168, R169) -/

theorem GeometryIs.rowStride_toNat {bc w : Nat} {t : State} (h : GeometryIs bc w t) :
    t.rowStride.toNat = strideOf bc w := by
  obtain ⟨hdata, hpad, hstride⟩ := h
  rw [hstride, hdata, hpad, strideOf]

theorem mul_le_strideOf (n w : Nat) : n * w ≤ strideOf (8 * n) w :=
  (dataBytes_whole n w).symm.le.trans (Nat.le_add_right _ _)

theorem SameControl.w_eq {s t u : State} (h : SameControl s t) (hu : u.wSnap = t.wSnap) : u.w = s.w :=
  let ⟨_, hsnap, _⟩ := h
  congrArg BitVec.toNat (hu.trans hsnap)

theorem LowestMatch.valid {s : State} {n k : Nat} {p : Pixel} (h : LowestMatch s n p k) : s.valid k = true := h.2.1

theorem LowestMatch.colour {s : State} {n k : Nat} {p : Pixel} (h : LowestMatch s n p k) :
    (s.palEntry k).colour = p := h.2.2.1

theorem SamePalette.trans {s t u : State} (h : SamePalette s t) (h' : SamePalette t u) : SamePalette s u :=
  ⟨h'.1.trans h.1, fun k => (h'.2 k).trans (h.2 k)⟩

theorem SamePalette.lowestMatch_iff {s t : State} (h : SamePalette s t) {n k : Nat} {p : Pixel} :
    LowestMatch t n p k ↔ LowestMatch s n p k := by
  obtain ⟨hpv, hentry⟩ := h
  simp only [LowestMatch, valid_congr hpv, hentry]

/-- A PACK through the palette without error has found every colour. -/
theorem PacksIndexed.of_no_error {i : Instr} {bc ppb : Nat} {index : State → Nat → Nat}
    (h : PacksIndexed i bc ppb index) {s t : State} (hw : s.w ≤ maxWidth) (hx : exec i s = .next t)
    (herr : t.err = false) :
    SameControl s t ∧ SamePalette s t ∧ ∀ x, x < s.w → LowestMatch s (2 ^ bc) (s.pixel x) (index t x) := by
  obtain ⟨t', hx', _, hctrl, hpal, _, hbad, hgood⟩ := h s hw
  cases hx.symm.trans hx'
  have hfound : ∀ x, x < s.w → ∃ k, k < 2 ^ bc ∧ s.valid k = true ∧ (s.palEntry k).colour = s.pixel x := by
    by_contra hno
    push Not at hno
    obtain ⟨⟨_, _, herr', _⟩, _⟩ := hbad hno
    simp [herr] at herr'
  obtain ⟨_, hlow, _⟩ := hgood hfound
  exact ⟨hctrl, hpal, hlow⟩

/-- An UNPACK through the palette without error has found every index valid. -/
theorem UnpacksIndexed.of_no_error {i : Instr} {bc : Nat} {index : State → Nat → Nat}
    (h : UnpacksIndexed i bc index) {s t : State} (hw : s.w ≤ maxWidth) (hx : exec i s = .next t)
    (herr : t.err = false) :
    SameControl s t ∧ SamePalette s t ∧
      ∀ x, x < s.w → s.valid (index s x) = true ∧ t.pixel x = (s.palEntry (index s x)).colour := by
  obtain ⟨t', hx', _, hctrl, hpal, _, hbad, hgood⟩ := h s hw
  cases hx.symm.trans hx'
  have hvalid : ∀ x, x < s.w → s.valid (index s x) = true := by
    by_contra hno
    push Not at hno
    obtain ⟨⟨_, _, herr', _⟩, _⟩ := hbad (by simpa using hno)
    simp [herr] at herr'
  obtain ⟨_, hpixel, _⟩ := hgood hvalid
  exact ⟨hctrl, hpal, fun x hx => ⟨hvalid x hx, hpixel x hx⟩⟩

/-- PACK, then UNPACK, through the palette: the index packed has the pixel's colour. -/
theorem packThenUnpack_indexed {p u : Instr} {bc ppb : Nat} {index : State → Nat → Nat}
    (hlayout : IndexLayout bc ppb index) (hpack : PacksIndexed p bc ppb index) (hunpack : UnpacksIndexed u bc index) :
    PackThenUnpack p u bc := by
  intro s s1 s2 hw _ hx herr1 hw2 herr2 hpal2 hrow
  obtain ⟨hctrl, hpal, hlow⟩ := PacksIndexed.of_no_error hpack hw hx herr1
  replace hw2 : s2.w = s.w := hctrl.w_eq hw2
  have hindex : ∀ x, x < s.w → LowestMatch s2 (2 ^ bc) (s.pixel x) (index s2 x) := fun x hx => by
    rw [hlayout.congr (hrow _ ((hlayout.byte_lt_iff.mpr (hlayout.lt_positions hx)).trans_le (Nat.le_add_right _ _)))]
    exact (hpal.trans hpal2).lowestMatch_iff.mpr (hlow x hx)
  obtain ⟨t, ht, _, _, _, _, _, hgood⟩ := hunpack s2 (hw2 ▸ hw)
  rw [hw2] at hgood
  obtain ⟨⟨_, _, herr, _⟩, hpixel, _⟩ := hgood fun x hx => (hindex x hx).valid
  exact ⟨t, ht, herr.trans herr2, fun x hx => (hpixel x hx).trans (hindex x hx).colour⟩

/-- PACK, then UNPACK, of pixels that the row holds themselves. -/
theorem packThenUnpack_direct {p u : Instr} {n : Nat} (hn : 3 ≤ n) (hpack : PacksDirect p n)
    (hunpack : UnpacksDirect u n) : PackThenUnpack p u (8 * n) := by
  intro s s1 s2 hw _ hx _ hw2 herr2 _ hrow
  obtain ⟨_, hx', _, _, hctrl, _, _, hbytes, _⟩ := hpack s hw
  cases hx.symm.trans hx'
  replace hw2 : s2.w = s.w := hctrl.w_eq hw2
  obtain ⟨t, ht, ⟨_, _, herr, _⟩, _, _, _, _, hpixel, _⟩ := hunpack s2 (hw2 ▸ hw)
  refine ⟨t, ht, herr.trans herr2, fun x hx => ?_⟩
  obtain ⟨hb, hg, hr, _⟩ := hbytes x hx
  obtain ⟨hb', hg', hr'⟩ := hpixel x (hw2 ▸ hx)
  have hlast : n * x + 2 < strideOf (8 * n) s.w :=
    calc n * x + 2 < n * (x + 1) := by rw [Nat.mul_succ]; omega
      _ ≤ n * s.w := Nat.mul_le_mul_left n hx
      _ ≤ strideOf (8 * n) s.w := mul_le_strideOf n s.w
  refine Pixel.ext (hb'.trans ?_) (hg'.trans ?_) (hr'.trans ?_) <;> rw [hrow _ (by omega)] <;> assumption

/-- UNPACK, then PACK, through the palette: each index becomes the lowest one of its colour. -/
theorem unpackThenPack_indexed {u p : Instr} {bc ppb : Nat} {index : State → Nat → Nat}
    (hlayout : IndexLayout bc ppb index) (hunpack : UnpacksIndexed u bc index) (hpack : PacksIndexed p bc ppb index) :
    UnpackThenPackIndexed u p bc ppb index := by
  intro s s1 s2 hw _ hx herr1 hw2 herr2 hpal2 hpix2
  obtain ⟨hctrl, hpal, hpixel⟩ := UnpacksIndexed.of_no_error hunpack hw hx herr1
  replace hw2 : s2.w = s.w := hctrl.w_eq hw2
  replace hpal2 := hpal.trans hpal2
  have hcolour : ∀ x, x < s.w → s2.pixel x = (s.palEntry (index s x)).colour := fun x hx =>
    (hpix2 x hx).trans (hpixel x hx).2
  obtain ⟨t, ht, hgeom, _, _, _, _, hgood⟩ := hpack s2 (hw2 ▸ hw)
  rw [hgeom.1, hgeom.rowStride_toNat, hw2] at hgood
  obtain ⟨⟨_, _, herr, _⟩, hlow, hunused, hpad, _⟩ := hgood fun x hx =>
    ⟨index s x, hlayout.lt s x, (valid_congr hpal2.1 _).trans (hpixel x hx).1, by rw [hpal2.2, hcolour x hx]⟩
  replace hlow : ∀ x, x < s.w → LowestMatch s (2 ^ bc) (s.palEntry (index s x)).colour (index t x) := fun x hx =>
    hcolour x hx ▸ hpal2.lowestMatch_iff.mp (hlow x hx)
  refine ⟨t, ht, herr.trans herr2, hlow, hunused, hpad, fun hunused' hpad' hdistinct j hj => ?_⟩
  by_cases hdata : j < (s.w * bc + 7) / 8
  · refine hlayout.byte_ext fun x hxj => ?_
    by_cases hxw : x < s.w
    · obtain ⟨hlt, hvalid, hsame, _⟩ := hlow x hxw
      exact hdistinct _ _ hlt (hlayout.lt s x) hvalid (hpixel x hxw).1 hsame
    · have hpos : x < ppb * ((s.w * bc + 7) / 8) := hlayout.byte_lt_iff.mp (hxj ▸ hdata)
      rw [hunused x (by omega) hpos, hunused' x (by omega) hpos]
  · rw [hpad j (by omega) hj, hpad' j (by omega) hj]

/-- UNPACK, then PACK, of pixels that the row holds themselves. -/
theorem unpackThenPack_direct {u p : Instr} {n : Nat} (hn : n = 3 ∨ n = 4) (hunpack : UnpacksDirect u n)
    (hpack : PacksDirect p n) : UnpackThenPackDirect u p n := by
  intro s s1 s2 hw _ hx hw2 herr2 hpix2
  obtain ⟨_, hx', _, _, hctrl, _, _, hpixel, _⟩ := hunpack s hw
  cases hx.symm.trans hx'
  replace hw2 : s2.w = s.w := hctrl.w_eq hw2
  obtain ⟨t, ht, ⟨_, _, herr, _⟩, hgeom, _, _, _, hbytes, hpad, _⟩ := hpack s2 (hw2 ▸ hw)
  rw [hgeom.rowStride_toNat, hw2] at hpad
  have hpixelBytes : ∀ x, x < s.w → t.rowByte (n * x) = s.rowByte (n * x) ∧
      t.rowByte (n * x + 1) = s.rowByte (n * x + 1) ∧ t.rowByte (n * x + 2) = s.rowByte (n * x + 2) ∧
      (n = 4 → t.rowByte (n * x + 3) = 0) := fun x hx => by
    obtain ⟨hb, hg, hr, hrsv⟩ := hbytes x (hw2 ▸ hx)
    obtain ⟨hb', hg', hr'⟩ := hpixel x hx
    rw [hpix2 x hx] at hb hg hr
    exact ⟨hb.trans hb', hg.trans hg', hr.trans hr', hrsv⟩
  refine ⟨t, ht, herr.trans herr2, fun j hj hne => ?_, fun j hj heq => ?_, hpad⟩ <;>
    obtain ⟨hb, hg, hr, hrsv⟩ := hpixelBytes (j / n) (Nat.div_lt_of_lt_mul hj)
  · have hplace : j = n * (j / n) ∨ j = n * (j / n) + 1 ∨ j = n * (j / n) + 2 := by
      rcases hn with rfl | rfl <;> omega
    rcases hplace with h | h | h <;> rw [h] <;> assumption
  · obtain ⟨h4, hplace⟩ : n = 4 ∧ j = n * (j / n) + 3 := by rcases hn with rfl | rfl <;> omega
    rw [hplace]
    exact hrsv h4

end Sys2Proof.Claims

namespace Sys2Proof.Proofs

open Sys2Proof.Machine Sys2Proof.Claims

/-! ### What each PACK and UNPACK does while the width is in range -/

theorem packsIndexed_pack1 : PacksIndexed .pack1 1 8 bitIndex :=
  packsIndexed_of_exec (bc := .bc1) (fun _ => rfl) indexLayout_bit holdsIndices_packByte1

theorem packsIndexed_pack4 : PacksIndexed .pack4 4 2 nibbleIndex :=
  packsIndexed_of_exec (bc := .bc4) (fun _ => rfl) indexLayout_nibble holdsIndices_packByte4

theorem packsIndexed_pack8 : PacksIndexed .pack8 8 1 byteIndex :=
  packsIndexed_of_exec (bc := .bc8) (fun _ => rfl) indexLayout_byte holdsIndices_packByte8

theorem packsDirect_pack24 : PacksDirect .pack24 3 :=
  packsDirect_of_exec (bc := .bc24) (fun _ => rfl) rfl holdsPixels_tripleOf

theorem packsDirect_pack32 : PacksDirect .pack32 4 :=
  packsDirect_of_exec (bc := .bc32) (fun _ => rfl) rfl holdsPixels_quadOf

theorem unpacksIndexed_unpack1 : UnpacksIndexed .unpack1 1 bitIndex := unpack1DecodesRow.2.2

theorem unpacksIndexed_unpack4 : UnpacksIndexed .unpack4 4 nibbleIndex := unpack4DecodesRow.2.2

theorem unpacksIndexed_unpack8 : UnpacksIndexed .unpack8 8 byteIndex := unpack8DecodesRow.2.2

theorem unpacksDirect_unpack24 : UnpacksDirect .unpack24 3 := unpack24DecodesRow.2.2

theorem unpacksDirect_unpack32 : UnpacksDirect .unpack32 4 := unpack32DecodesRow.2.2

/-! ### The obligations -/

/-- Settles O22: a byte holds eight indices, each the bit the rule names. -/
theorem pack1EncodesRow : Obligations.Pack1EncodesRow :=
  ⟨decode_eq_command.mpr rfl, rejectsWideRows_of_rowCommand fun _ => rfl, packsIndexed_pack1⟩

/-- Settles O23: a byte holds two indices, the high half first. -/
theorem pack4EncodesRow : Obligations.Pack4EncodesRow :=
  ⟨decode_eq_command.mpr rfl, rejectsWideRows_of_rowCommand fun _ => rfl, packsIndexed_pack4⟩

/-- Settles O24: a byte is an index. -/
theorem pack8EncodesRow : Obligations.Pack8EncodesRow :=
  ⟨decode_eq_command.mpr rfl, rejectsWideRows_of_rowCommand fun _ => rfl, packsIndexed_pack8⟩

/-- Settles O25: a direct row at three bytes a pixel. -/
theorem pack24EncodesRow : Obligations.Pack24EncodesRow :=
  ⟨decode_eq_command.mpr rfl, rejectsWideRows_of_rowCommand fun _ => rfl, packsDirect_pack24⟩

/-- Settles O26: a direct row at four bytes a pixel, the fourth of them 0. -/
theorem pack32EncodesRow : Obligations.Pack32EncodesRow :=
  ⟨decode_eq_command.mpr rfl, rejectsWideRows_of_rowCommand fun _ => rfl, packsDirect_pack32⟩

/-- Settles O31, from what PACK and UNPACK do at each depth. -/
theorem packThenUnpackRestoresPixels : Obligations.PackThenUnpackRestoresPixels :=
  ⟨packThenUnpack_indexed indexLayout_bit packsIndexed_pack1 unpacksIndexed_unpack1,
    packThenUnpack_indexed indexLayout_nibble packsIndexed_pack4 unpacksIndexed_unpack4,
    packThenUnpack_indexed indexLayout_byte packsIndexed_pack8 unpacksIndexed_unpack8,
    packThenUnpack_direct (by decide) packsDirect_pack24 unpacksDirect_unpack24,
    packThenUnpack_direct (by decide) packsDirect_pack32 unpacksDirect_unpack32⟩

/-- Settles O32, from what UNPACK and PACK do at each depth. -/
theorem unpackThenPackRestoresRow : Obligations.UnpackThenPackRestoresRow :=
  ⟨unpackThenPack_indexed indexLayout_bit unpacksIndexed_unpack1 packsIndexed_pack1,
    unpackThenPack_indexed indexLayout_nibble unpacksIndexed_unpack4 packsIndexed_pack4,
    unpackThenPack_indexed indexLayout_byte unpacksIndexed_unpack8 packsIndexed_pack8,
    unpackThenPack_direct (.inl rfl) unpacksDirect_unpack24 packsDirect_pack24,
    unpackThenPack_direct (.inr rfl) unpacksDirect_unpack32 packsDirect_pack32⟩

end Sys2Proof.Proofs
end

-- Proofs of the family 42_control.md: NOP, SIZE, GENRAMP and PALCLR, and the palette commands after PALCLR.
section
namespace Sys2Proof.Machine

open Sys2Proof.Claims

/-! ### The commands that take no bit count -/

/-- A word with the OP of NOP or PALCLR that is not the command's own is BAD_OP (30_encoding.md R104 step 1). -/
theorem decode_badOp_of_op {w : Word} {i : Instr} (hi : i = .nop ∨ i = .palclr) (hop : opOf w = i.op.toNat)
    (hne : w ≠ encode i) : decode w = .illegal .badOp := by
  have hbc : i.bc.toNat = 0 ∧ (i.op.toNat = 0 ∨ i.op.toNat = 5) := by rcases hi with rfl | rfl <;> decide
  rw [ne_eq, BitVec.toNat_eq, encode_toNat] at hne
  rw [decode_eq_badOp]
  unfold BadOpWord bcOf
  unfold opOf at hop ⊢
  omega

/-! ### SIZE -/

/-- A row command with no work of its own sets the geometry and nothing else (40_unpack.md R132). -/
theorem sizes_of_exec {i : Instr} (bc : BitCount) (hex : ∀ s, exec i s = .next (s.rowCommand bc id)) :
    Sizes i bc.toNat := by
  intro s hw
  have h : exec i s = .next (s.setGeometry bc).finish := by rw [hex, rowCommand_ok bc id hw, id]
  exact ⟨_, h, ⟨rfl, rfl, rfl, rfl⟩, geometryIs_setGeometry bc hw, (exec_keepsControl h).sameControl,
    sameMemories_of_eq rfl rfl rfl rfl rfl⟩

/-! ### GENRAMP -/

/-- The channels of a ramp entry in closed form, since no value wraps (42_control.md R196). -/
theorem rampEntry_toNat {bc : BitCount} (hbc : bc.toNat ≤ 8) {k : Nat} (hk : k < 2 ^ bc.toNat) :
    (rampEntry bc k).b.toNat = rampLevel (2 ^ (8 - bc.toNat)) k ∧
      (rampEntry bc k).g.toNat = rampLevel (2 ^ (8 - bc.toNat)) k ∧
      (rampEntry bc k).r.toNat = rampLevel (2 ^ (8 - bc.toNat)) k ∧ (rampEntry bc k).rsv = 0 := by
  have hv : (BitVec.ofNat 8 (rampValue (2 ^ (8 - bc.toNat)) k)).toNat = rampLevel (2 ^ (8 - bc.toNat)) k := by
    rw [BitVec.toNat_ofNat, Nat.mod_eq_of_lt (rampValue_lt hbc hk), rampValue_closed Nat.one_le_two_pow, rampLevel]
  exact ⟨hv, hv, hv, rfl⟩

theorem palEntry_genramp (s : State) (bc : BitCount) (k : Nat) :
    (s.genramp bc).palEntry k = if k < 2 ^ bc.toNat then rampEntry bc k else s.palEntry k := by
  rw [State.genramp, palEntry_writePalette, List.getElem?_map]
  split
  next hk => rw [List.getElem?_range hk, Option.map_some, Option.getD_some]
  next hk => rw [List.getElem?_eq_none (by simpa using hk), Option.map_none, Option.getD_none]

/-- GENRAMP at any of its bit counts: the ramp's entries, their flags, and the frame (42_control.md R196). -/
theorem ramps_of_exec {i : Instr} {bc : BitCount} (hi : (i, bc) ∈ rampCommands)
    (hex : ∀ s, exec i s = .next (s.genramp bc).finish) : Ramps i bc.toNat := by
  intro s
  refine ⟨_, hex s, ⟨rfl, rfl, rfl, rfl⟩, (exec_keepsControl (hex s)).sameControl, ⟨rfl, rfl, rfl⟩, fun _ => rfl,
    fun _ => rfl, fun k hk => ?_, fun k hk => ?_⟩ <;>
    rw [State.finish_valid, State.finish_palEntry, valid_genramp hi, palEntry_genramp]
  · rw [if_pos hk, decide_eq_true hk, Bool.or_true]
    exact ⟨rfl, rampEntry_toNat (rampCommands_le hi) hk⟩
  · rw [if_neg (by omega), decide_eq_false (by omega), Bool.or_false]
    exact ⟨rfl, rfl⟩

end Sys2Proof.Machine

namespace Sys2Proof.Claims

open Sys2Proof.Machine

/-! ### Palette commands while no entry is valid -/

section
variable {i : Instr} {bc : Nat} {s : State} (hv : ∀ k, s.valid k = false) (hpos : 1 ≤ s.w) (hw : s.w ≤ maxWidth)
include hv hpos hw

/-- With no valid entry, the index of pixel 0 is invalid already (40_unpack.md R134). -/
theorem UnpacksIndexed.fails_of_no_valid {index : State → Nat → Nat} (h : UnpacksIndexed i bc index) :
    ∃ t, exec i s = .next t ∧ EndsInError .palInvalid s t := by
  obtain ⟨t, hex, _, _, _, _, hinvalid, _⟩ := h s hw
  obtain ⟨herr, _⟩ := hinvalid ⟨0, hpos, hv _⟩
  exact ⟨t, hex, herr⟩

/-- With no valid entry, the colour of pixel 0 has no match already (41_pack.md R160). -/
theorem PacksIndexed.fails_of_no_valid {ppb : Nat} {index : State → Nat → Nat} (h : PacksIndexed i bc ppb index) :
    ∃ t, exec i s = .next t ∧ EndsInError .palNoMatch s t := by
  obtain ⟨t, hex, _, _, _, _, hnomatch, _⟩ := h s hw
  obtain ⟨herr, _⟩ := hnomatch ⟨0, hpos, fun k _ hk => absurd hk (by rw [hv]; decide)⟩
  exact ⟨t, hex, herr⟩

end

end Sys2Proof.Claims

namespace Sys2Proof.Proofs

open Sys2Proof.Machine Sys2Proof.Claims

/-! ### The palette commands while no entry is valid, by name -/

section
variable {s : State} (hv : ∀ k, s.valid k = false) (hpos : 1 ≤ s.w) (hw : s.w ≤ maxWidth)
include hv hpos hw

theorem unpack_fails_of_no_valid {i : Instr} (hi : i ∈ [Instr.unpack1, .unpack4, .unpack8]) :
    ∃ t, exec i s = .next t ∧ EndsInError .palInvalid s t := by
  simp only [List.mem_cons, List.not_mem_nil, or_false] at hi
  rcases hi with rfl | rfl | rfl
  · exact unpacksIndexed_unpack1.fails_of_no_valid hv hpos hw
  · exact unpacksIndexed_unpack4.fails_of_no_valid hv hpos hw
  · exact unpacksIndexed_unpack8.fails_of_no_valid hv hpos hw

theorem pack_fails_of_no_valid {i : Instr} (hi : i ∈ [Instr.pack1, .pack4, .pack8]) :
    ∃ t, exec i s = .next t ∧ EndsInError .palNoMatch s t := by
  simp only [List.mem_cons, List.not_mem_nil, or_false] at hi
  rcases hi with rfl | rfl | rfl
  · exact packsIndexed_pack1.fails_of_no_valid hv hpos hw
  · exact packsIndexed_pack4.fails_of_no_valid hv hpos hw
  · exact packsIndexed_pack8.fails_of_no_valid hv hpos hw

end

/-! ### The obligations -/

/-- Settles O30: NOP is the end of an ENGINE step and no more. -/
theorem nopOnlyCompletes : Obligations.NopOnlyCompletes := by
  refine ⟨decode_eq_command.mpr rfl, fun s => ?_, fun w hop hne => decode_badOp_of_op (.inl rfl) hop hne⟩
  have h : exec .nop s = .next s.finish := rfl
  exact ⟨_, h, ⟨rfl, rfl, rfl, rfl⟩, (exec_keepsControl h).sameControl, ⟨rfl, rfl, rfl⟩,
    sameMemories_of_eq rfl rfl rfl rfl rfl⟩

/-- Settles O27: each SIZE is a row command with no work of its own. -/
theorem sizeSetsGeometry : Obligations.SizeSetsGeometry :=
  ⟨⟨decode_eq_command.mpr rfl, rejectsWideRows_of_rowCommand fun _ => rfl, sizes_of_exec .bc1 fun _ => rfl⟩,
    ⟨decode_eq_command.mpr rfl, rejectsWideRows_of_rowCommand fun _ => rfl, sizes_of_exec .bc4 fun _ => rfl⟩,
    ⟨decode_eq_command.mpr rfl, rejectsWideRows_of_rowCommand fun _ => rfl, sizes_of_exec .bc8 fun _ => rfl⟩,
    ⟨decode_eq_command.mpr rfl, rejectsWideRows_of_rowCommand fun _ => rfl, sizes_of_exec .bc24 fun _ => rfl⟩,
    ⟨decode_eq_command.mpr rfl, rejectsWideRows_of_rowCommand fun _ => rfl, sizes_of_exec .bc32 fun _ => rfl⟩⟩

/-- Settles O28: the ramp at each bit count, in closed form. -/
theorem genrampWritesRamp : Obligations.GenrampWritesRamp :=
  ⟨⟨decode_eq_command.mpr rfl, ramps_of_exec (bc := .bc1) (by decide) fun _ => rfl⟩,
    ⟨decode_eq_command.mpr rfl, ramps_of_exec (bc := .bc4) (by decide) fun _ => rfl⟩,
    ⟨decode_eq_command.mpr rfl, ramps_of_exec (bc := .bc8) (by decide) fun _ => rfl⟩⟩

/-- Settles O29: PALCLR clears every valid flag, and a palette command fails at its first pixel while none is set. -/
theorem palclrClearsPalette : Obligations.PalclrClearsPalette := by
  have hex : ∀ s, exec .palclr s = .next s.clearPalette.finish := fun _ => rfl
  refine ⟨decode_eq_command.mpr rfl, fun s => ?_, fun w hop hne => decode_badOp_of_op (.inr rfl) hop hne,
    fun s s1 s2 h1 hpv hpos hw => ?_⟩
  · refine ⟨_, hex s, ⟨rfl, rfl, rfl, rfl⟩, (exec_keepsControl (hex s)).sameControl, ⟨rfl, rfl, rfl⟩, fun _ => rfl,
      fun _ => rfl, fun k hk => ⟨valid_clearPalette s k, ?_⟩⟩
    rw [State.finish_palEntry, palEntry_clearPalette, if_pos hk]
  · rw [hex] at h1
    cases h1
    have hv : ∀ k, s2.valid k = false := fun k => (valid_congr hpv k).trans (valid_clearPalette s k)
    exact ⟨fun i hi => unpack_fails_of_no_valid hv hpos hw hi, fun i hi => pack_fails_of_no_valid hv hpos hw hi⟩

end Sys2Proof.Proofs
end

-- Proofs of the family 60_exceptions.md: how a command ends, where an error comes from, and the interrupt line.
section
namespace Sys2Proof.Machine

open Sys2Proof.Claims

/-! ### Illegal words (60_exceptions.md R222, R223) -/

/-- The ENGINE's step on an illegal word records the decoder's code and ends the command (30_encoding.md R107). -/
theorem step_illegal {s : State} {c : ErrCode} (hm : EngineMoves s) (hd : decode s.cmd = .illegal c) :
    step s = .next (s.nextTurn.recordError c).finish := by
  obtain ⟨ht, hb⟩ := hm
  rw [step_engine ht hb]
  unfold State.engineStep
  rw [State.nextTurn_cmd, hd]
  rfl

/-- An illegal word changes nothing but STATUS. -/
theorem step_illegal_frame {s : State} {c : ErrCode} (hm : EngineMoves s) (hd : decode s.cmd = .illegal c) :
    ∃ t, step s = .next t ∧ EndsInError c s t ∧ SameControl s.nextTurn t ∧ SameGeometry s t ∧ SameMemories s t :=
  ⟨_, step_illegal hm hd, endsInError_recordError s.nextTurn c,
    (keepsControl_recordError s.nextTurn c).sameControl, sameGeometry_recordError s.nextTurn c,
    sameMemories_recordError s.nextTurn c⟩

/-! ### Commands by their OP -/

theorem opOf_encode (i : Instr) : opOf (encode i) = i.op.toNat := by
  have := i.op.isLt
  unfold opOf
  rw [encode_toNat]
  omega

/-- UNPACK, PACK and SIZE are the OPs 1 to 3 (30_encoding.md R101). -/
theorem mem_rowCommands_iff (i : Instr) : i ∈ rowCommands ↔ 1 ≤ i.op.toNat ∧ i.op.toNat ≤ 3 := by
  cases i <;> decide

/-- Each of them is a row command: the width check comes first (30_encoding.md R104 step 3). -/
theorem exec_of_mem_rowCommands {i : Instr} (hi : i ∈ rowCommands) :
    ∃ bc work, ∀ s, exec i s = .next (s.rowCommand bc work) := by
  have hramps : ∀ p ∈ rampCommands, p.1 ∉ rowCommands := by decide
  obtain ⟨f, hf, hex⟩ := exec_meaning i
  cases hf with
  | row _ _ => exact ⟨_, _, hex⟩
  | nop | palclr => exact absurd hi (by decide)
  | genramp hramp => exact absurd hi (hramps _ hramp)

/-! ### How a command ends when no check of R104 rejects it -/

/-- The ways a command with the given OP can end, its row being in range: without an error, or in its own data error
(60_exceptions.md R226, R227). -/
def EndsInOwnWay (op : Nat) (s t : State) : Prop :=
  EndsWell s t ∨ (op = 1 ∧ EndsInError .palInvalid s t) ∨ (op = 2 ∧ EndsInError .palNoMatch s t)

theorem rowCommand_unpackIndexed_ends {s : State} (bc : BitCount) (index : State → Nat → Byte) (hw : s.w ≤ maxWidth) :
    EndsInOwnWay 1 s (s.rowCommand bc (State.unpackIndexed index)) := by
  rw [rowCommand_ok bc _ hw]
  rcases unpackIndexed_cases (s.setGeometry bc) index with ⟨_, h⟩ | ⟨_, h⟩ <;> rw [h]
  · exact .inl ⟨rfl, rfl, rfl, rfl⟩
  · exact .inr (.inl ⟨rfl, endsInError_recordError (s.setGeometry bc) _⟩)

theorem rowCommand_packIndexed_ends {s : State} (bc : BitCount) (byteAt : Nat → List Byte → Nat → Byte)
    (hw : s.w ≤ maxWidth) :
    EndsInOwnWay 2 s (s.rowCommand bc (State.packIndexed bc byteAt)) := by
  rw [rowCommand_ok bc _ hw]
  rcases packIndexed_cases (s.setGeometry bc) bc byteAt with ⟨_, _, _, h⟩ | ⟨_, h⟩ <;> rw [h]
  · exact .inl ⟨rfl, rfl, rfl, rfl⟩
  · exact .inr (.inr ⟨rfl, endsInError_recordError (s.setGeometry bc) _⟩)

/-- A command that the width check lets through ends well or in the data error of its OP. -/
theorem exec_ends {i : Instr} {s t : State} (hex : exec i s = .next t) (hw : i ∈ rowCommands → s.w ≤ maxWidth) :
    EndsInOwnWay i.op.toNat s t := by
  cases i with
  | nop | palclr | genramp1 | genramp4 | genramp8 => cases hex; exact .inl ⟨rfl, rfl, rfl, rfl⟩
  | unpack1 | unpack4 | unpack8 => cases hex; exact rowCommand_unpackIndexed_ends _ _ (hw (by decide))
  | pack1 | pack4 | pack8 => cases hex; exact rowCommand_packIndexed_ends _ _ (hw (by decide))
  | unpack24 | unpack32 | pack24 | pack32 | size1 | size4 | size8 | size24 | size32 =>
    cases hex
    rw [rowCommand_ok _ _ (hw (by decide))]
    exact .inl ⟨rfl, rfl, rfl, rfl⟩

/-- With no error recorded before, the code raised is the one recorded (60_exceptions.md R224). -/
theorem records_of_endsInError {c : ErrCode} {s t : State} (h : EndsInError c s t) (hs : s.err = false) :
    t.err = true ∧ t.errCode = c := by
  obtain ⟨_, _, herr, hcode⟩ := h
  exact ⟨herr, by simpa [hs] using hcode⟩

theorem EndsInOwnWay.records {op : Nat} {s t : State} (h : EndsInOwnWay op s t) (hs : s.err = false) :
    t.err = false ∨ (op = 1 ∧ t.err = true ∧ t.errCode = .palInvalid) ∨
      (op = 2 ∧ t.err = true ∧ t.errCode = .palNoMatch) := by
  rcases h with ⟨_, _, herr, _⟩ | ⟨hop, h⟩ | ⟨hop, h⟩
  · exact .inl (herr.trans hs)
  · exact .inr (.inl ⟨hop, records_of_endsInError h hs⟩)
  · exact .inr (.inr ⟨hop, records_of_endsInError h hs⟩)

/-! ### Where an error comes from (60_exceptions.md R220, R221) -/

theorem RecordsAtMost.rises {s t : State} (h : RecordsAtMost s t) (hs : s.err = false) (ht : t.err = true) :
    IsCommandError t.errCode := by
  rcases h with ⟨he, _⟩ | ⟨c, hc, _, hcode⟩
  · rw [he, hs] at ht; cases ht
  · rwa [hcode, hs, if_neg Bool.false_ne_true]

theorem StepEffect.error_rises {s t : State} (h : StepEffect s t) (hs : s.err = false) (ht : t.err = true) :
    (EngineMoves s ∧ IsCommandError t.errCode) ∨
      ((∃ v, HostWrites s .cmd v) ∧ s.busy = true ∧ t.errCode = .cmdOverrun) := by
  cases h with
  | engine hm he => exact .inl ⟨hm, (engineStep_recordsAtMost he).rises hs ht⟩
  | overrun e hw hb => exact .inr ⟨⟨_, hw⟩, hb, by simp [hs]⟩
  | clear e hw => simp [hs] at ht
  | softReset e hr | hardReset e hr => cases ht
  | _ => cases hs.symm.trans ht

/-! ### A CMD write while busy (60_exceptions.md R228) -/

theorem step_write_cmd_busy {s : State} {v : Word} (hw : HostWrites s .cmd v) (hb : s.busy = true) :
    step s = .next ((s.nextTurn.recordError .cmdOverrun).respond s.env.program.tail .writeOk) := by
  rw [step_hostWrites hw, State.writeLoc, writeCmd_busy v (s := s.nextTurn) hb]

/-! ### The interrupt line (60_exceptions.md R230) -/

theorem irq_iff (s : State) : s.irq = true ↔ (s.ieDone = true ∧ s.done = true) ∨ (s.ieErr = true ∧ s.err = true) := by
  simp [State.irq]

/-- After a write to STATUS the sources left are those whose bit was not set. -/
theorem irq_clearStatus_iff (s : State) (v : Word) :
    (s.clearStatus v).irq = true ↔ (s.ieDone = true ∧ s.done = true ∧ v.getLsbD 1 = false) ∨
      (s.ieErr = true ∧ s.err = true ∧ v.getLsbD 2 = false) := by
  rw [irq_iff]
  simp [and_comm]

/-- A write to STATUS never raises the line. -/
theorem irq_of_irq_clearStatus {s : State} {v : Word} (h : (s.clearStatus v).irq = true) : s.irq = true := by
  rw [irq_clearStatus_iff] at h
  rw [irq_iff]
  rcases h with ⟨hie, hdone, _⟩ | ⟨hie, herr, _⟩
  · exact .inl ⟨hie, hdone⟩
  · exact .inr ⟨hie, herr⟩

theorem StepEffect.irq_rises {s t : State} (h : StepEffect s t) :
    (t.irq = true → s.irq = true) ∨ EngineMoves s ∨ ((∃ v, HostWrites s .cmd v) ∧ s.busy = true) ∨
      ∃ v, HostWrites s .ctrl v := by
  cases h with
  | engine hm _ => exact .inr (.inl hm)
  | overrun _ hw hb => exact .inr (.inr (.inl ⟨⟨_, hw⟩, hb⟩))
  | enables _ hw _ => exact .inr (.inr (.inr ⟨_, hw⟩))
  | @clear v _ _ => exact .inl (irq_of_irq_clearStatus (s := s) (v := v))
  | softReset _ _ | hardReset _ _ => exact .inl nofun
  | _ => exact .inl id

end Sys2Proof.Machine

namespace Sys2Proof.Proofs

open Sys2Proof.Machine Sys2Proof.Claims

/-- Settles O7: the decoder answers BAD_OP for exactly these words. -/
theorem badOpChangesStatusOnly : Obligations.BadOpChangesStatusOnly :=
  fun _ hm hbad => step_illegal_frame hm (decode_eq_badOp.mpr hbad)

/-- Settles O8: the decoder answers UNSUPPORTED for exactly these words. -/
theorem unsupportedChangesStatusOnly : Obligations.UnsupportedChangesStatusOnly :=
  ⟨decode_eq_unsupported.mp (by decide), fun _ hm hunsup => step_illegal_frame hm (decode_eq_unsupported.mpr hunsup)⟩

/-- Settles O9: each of the fifteen is a row command, whose first check is the width. -/
theorem wideRowsRejected : Obligations.WideRowsRejected := by
  intro i hi
  obtain ⟨_, _, hex⟩ := exec_of_mem_rowCommands hi
  exact rejectsWideRows_of_rowCommand hex

/-- Settles O10: an illegal word by O7 and O8, a wide row by O9, and what is left ends in its own way. -/
theorem oneErrorInPriorityOrder : Obligations.OneErrorInPriorityOrder := by
  intro s t hm hs h
  have hcommand : ¬ BadOpWord s.cmd → ¬ UnsupportedWord s.cmd →
      ∃ i, exec i s.nextTurn = .next t ∧ opOf s.cmd = i.op.toNat := by
    intro hbad hunsup
    obtain ⟨i, hi⟩ := decode_is_command_iff.mpr ⟨mt decode_eq_badOp.mp hbad, mt decode_eq_unsupported.mp hunsup⟩
    exact ⟨i, (stepRunsDecodedCommand s i hm hi).symm.trans h, by rw [decode_eq_command.mp hi, opOf_encode]⟩
  refine ⟨fun hbad => ?_, fun hunsup => ?_, fun hbad hunsup hlo hhi hw => ?_, fun hbad hunsup hrest => ?_⟩
  · obtain ⟨t', ht', hend, _⟩ := badOpChangesStatusOnly s hm hbad
    cases h.symm.trans ht'
    exact records_of_endsInError hend hs
  · obtain ⟨t', ht', hend, _⟩ := unsupportedChangesStatusOnly.2 s hm hunsup
    cases h.symm.trans ht'
    exact records_of_endsInError hend hs
  · obtain ⟨i, hex, hop⟩ := hcommand hbad hunsup
    rw [hop] at hlo hhi
    obtain ⟨t', ht', hend, _⟩ := wideRowsRejected i ((mem_rowCommands_iff i).mpr ⟨hlo, hhi⟩) s.nextTurn hw
    cases hex.symm.trans ht'
    exact records_of_endsInError hend hs
  · obtain ⟨i, hex, hop⟩ := hcommand hbad hunsup
    rw [hop] at hrest ⊢
    refine (exec_ends hex fun hi => ?_).records hs
    obtain ⟨hlo, hhi⟩ := (mem_rowCommands_iff i).mp hi
    show s.w ≤ maxWidth
    omega

/-- Settles O36: of the kinds of step, only an ENGINE step and an overrun record an error. -/
theorem errorsComeFromCommands : Obligations.ErrorsComeFromCommands :=
  fun _ _ h hs ht => (step_effect h).error_rises hs ht

/-- Settles O58: every other kind of step leaves the line as it was or low. -/
theorem irqRisesOnlyByEvents : Obligations.IrqRisesOnlyByEvents :=
  fun _ _ h hs ht => (step_effect h).irq_rises.resolve_left fun hkeep => by simp [hkeep ht] at hs

/-- Settles O34: ERR and ERRCODE by the two cases of ERR, and the frame. -/
theorem firstErrorIsKept : Obligations.FirstErrorIsKept :=
  fun s c => ⟨fun hs => ⟨State.recordError_err s c, by simp [hs]⟩, recordError_of_err c,
    (keepsControl_recordError s c).sameControl, sameGeometry_recordError s c, sameMemories_recordError s c,
    State.recordError_busy s c, State.recordError_done s c⟩

/-- Settles O44: the write only records CMD_OVERRUN. -/
theorem cmdWriteWhileBusyOverruns : Obligations.CmdWriteWhileBusyOverruns := by
  intro s v hw hb
  obtain ⟨hcmd, hsnap, hieDone, hieErr, hwidth, _⟩ := (keepsControl_recordError s.nextTurn .cmdOverrun).sameControl
  exact ⟨_, step_write_cmd_busy hw hb, State.recordError_err _ _, State.recordError_errCode _ _, hcmd, hsnap,
    (State.recordError_busy s.nextTurn _).trans hb, State.recordError_done s.nextTurn _, hieDone, hieErr, hwidth,
    sameGeometry_recordError s.nextTurn _, sameMemories_recordError s.nextTurn _⟩

/-- Settles O57: the line by its sources, before and after a STATUS write, and low after a reset. -/
theorem irqFollowsStatus : Obligations.IrqFollowsStatus := by
  refine ⟨irq_iff, fun s t v hw h => ?_, rfl, fun s t hr h => ?_⟩
  · rw [step_hostWrites hw] at h
    cases h
    exact ⟨clearStatus_done_clear _, fun hv => (clearStatus_err_clear s.nextTurn hv).1, irq_clearStatus_iff s.nextTurn v⟩
  · obtain ⟨e, rfl | rfl⟩ := step_resets hr h <;> rfl

end Sys2Proof.Proofs
end

-- Proofs of the family 70_reset_and_hazards.md: what either reset leaves, and that the idle block does nothing.
section
namespace Sys2Proof.Machine

theorem valid_reset (k : Nat) : State.reset.valid k = false := BitVec.getLsbD_zero

/-- A host with no program left does nothing. -/
theorem hostStep_of_program_nil {s : State} (h : s.env.program = []) : s.hostStep = s := by
  unfold State.hostStep; rw [h]

end Sys2Proof.Machine

namespace Sys2Proof.Proofs

open Sys2Proof.Machine Sys2Proof.Claims

/-- Settles O1: a reset turn's step is `hardReset`, whose registers are read off, and `State.reset` has the same. -/
theorem hardwareResetValues : Obligations.HardwareResetValues := by
  refine ⟨fun s hr => ?_, ?_⟩
  · exact ⟨_, step_reset hr, rfl, rfl, rfl, rfl, rfl, rfl, rfl, rfl, rfl, rfl, rfl, rfl, valid_hardReset _, rfl⟩
  · exact ⟨rfl, rfl, rfl, rfl, rfl, rfl, rfl, rfl, rfl, rfl, rfl, rfl, valid_reset, rfl⟩

/-- Settles O2: the turn is the host's, which has no operation left, or the ENGINE's, which has no command. -/
theorem idleBlockDoesNothing : Obligations.IdleBlockDoesNothing := by
  intro s hb hp hr
  cases ht : s.turn with
  | host =>
    have hp' : s.nextTurn.env.program = [] := hp
    rw [step_host ht, hostStep_of_program_nil hp']
  | engine => exact step_engine_idle ht hb
  | reset => exact absurd ht hr

/-- Settles O3: the write's step is `softReset`, whether or not a command is pending, and CTRL reads its two enables. -/
theorem softResetKeepsMemories : Obligations.SoftResetKeepsMemories := by
  intro s v hw hv
  exact ⟨_, step_write_ctrl_reset hw hv, rfl, rfl, rfl, rfl, rfl, rfl, rfl, rfl, rfl, rfl, rfl, rfl,
    valid_softReset s.nextTurn, fun _ => rfl, fun _ => rfl, fun _ => rfl, ctrlWord_disabled rfl rfl⟩

end Sys2Proof.Proofs
end
